-- ==== Sys2Proof/Word.lean ====
section
/-! DEFINITION. The two element widths of FPC-CORE: the 64-bit value word and the byte (00_scope.md R8, R9). -/

namespace Sys2Proof

/-- A 64-bit word: the bit pattern of one double, a residual, a host register (R8, R106). -/
abbrev Word := BitVec 64

/-- One byte of BIN or BOUT (R72). -/
abbrev Byte := BitVec 8

end Sys2Proof
end

