-- ==== Sys2Proof/Syntax.lean ====
section
/-! DEFINITION. The instruction syntax of FPC-CORE: one constructor per row of spec/opcode_table.json. The first
six rows are CMD words (30_encoding.md R142), the sixteen `half…` rows are the halves of a header byte (R144, R162),
`term` is the terminator byte of a padding record (R155). -/

namespace Sys2Proof

/-- The two predictor engines a selector bit can name (30_encoding.md R145). -/
inductive Engine where
  /-- finite context method, selector bit 0 -/
  | fcm
  /-- differential finite context method, selector bit 1 -/
  | dfcm
deriving DecidableEq, Repr

/-- The instructions. No row has an operand field (R140, R143) but the reserved opcodes, whose OP is recorded in
STATUS.LAST_OP (R302, R334) and so is kept. -/
inductive Instr where
  | nop
  | config
  | encode
  | decode
  | reserved47 (op : BitVec 4)
  | reserved8F (op : BitVec 4)
  | halfF0
  | halfF1
  | halfF2
  | halfF3
  | halfF5
  | halfF6
  | halfF7
  | halfF8
  | halfD0
  | halfD1
  | halfD2
  | halfD3
  | halfD5
  | halfD6
  | halfD7
  | halfD8
  | term
deriving DecidableEq, Repr

/-- How an instruction is laid out on the machine's inputs (R140): a CMD word on the host bus, a half in one of the
two slots of a header byte on BIN, a terminator byte on BIN. -/
inductive Format where
  | cmd
  | slot1
  | slot2
  | term
deriving DecidableEq, Repr

end Sys2Proof
end

