-- ==== Sys2Proof/WellFormed.lean ====
section
/-! DEFINITION. Which terms of `Instr` stand for an encoding: the two reserved rows carry an OP of their own range
(30_encoding.md R142, R160; opcode_table.json RESERVED_4_7 and RESERVED_8_F). -/

namespace Sys2Proof

/-- The check. -/
def Instr.wellFormed : Instr → Bool
  | .reserved47 op => op.toNat / 4 == 1
  | .reserved8F op => op.toNat / 8 == 1
  | .nop | .config | .encode | .decode => true
  | .halfF0 | .halfF1 | .halfF2 | .halfF3 | .halfF5 | .halfF6 | .halfF7 | .halfF8 => true
  | .halfD0 | .halfD1 | .halfD2 | .halfD3 | .halfD5 | .halfD6 | .halfD7 | .halfD8 => true
  | .term => true

end Sys2Proof
end

