-- ==== Sys2Proof/Decode.lean ====
section
/-! DEFINITION. The decoder of both encoded languages of FPC-CORE and, after it, the encoder (30_encoding.md
R141, R142, R144, R155). A byte value alone does not say which language it belongs to: the CMD word, the two halves of
a header byte and the terminator are told apart by where they are fetched, so the decoder takes the format. -/

namespace Sys2Proof

/-- Why the decoder rejects bytes. No header, half, terminator or command word is illegal (R159, R160: the reserved
opcodes are instructions that raise IllegalCommand), so the one reason is a missing byte. -/
inductive DecodeError where
  /-- fewer bytes than the format has; raised by `decodeBytes`; safe, since the machine waits for them (R391) -/
  | truncated (fmt : Format)
deriving DecidableEq, Repr

/-- The instruction of opcode `op` (R142). -/
def decodeOp (op : BitVec 4) : Instr :=
  match op.toNat with
  | 0 => .nop
  | 1 => .config
  | 2 => .encode
  | 3 => .decode
  | 4 | 5 | 6 | 7 => .reserved47 op
  | _ => .reserved8F op

/-- The instruction of a CMD word: OP is bits 3..0, bits 63..4 are ignored (R141). -/
def decodeCmd (w : Word) : Instr := decodeOp (w.extractLsb' 0 4)

/-- The half of a header nibble: S is bit 3, C is bits 2..0 (R140, R144, R145, R162). -/
def decodeHalf (h : BitVec 4) : Instr :=
  match h.toNat with
  | 0 => .halfF0
  | 1 => .halfF1
  | 2 => .halfF2
  | 3 => .halfF3
  | 4 => .halfF5
  | 5 => .halfF6
  | 6 => .halfF7
  | 7 => .halfF8
  | 8 => .halfD0
  | 9 => .halfD1
  | 10 => .halfD2
  | 11 => .halfD3
  | 12 => .halfD5
  | 13 => .halfD6
  | 14 => .halfD7
  | _ => .halfD8

/-- Slot 1 of a header byte: the high nibble (R144). -/
def decodeSlot1 (h : Byte) : Instr := decodeHalf (h.extractLsb' 4 4)

/-- Slot 2 of a header byte: the low nibble (R144). -/
def decodeSlot2 (h : Byte) : Instr := decodeHalf (h.extractLsb' 0 4)

/-- The 64-bit word whose byte `j` is the `j`-th of the bytes: the host window is little-endian (20_memory.md R105). -/
def wordOfBytes : List Byte → Word
  | [] => 0
  | b :: bs => b.setWidth 64 ||| (wordOfBytes bs <<< 8)

/-- The first `n` bytes of a word, least significant first (R105). -/
def bytesOfWord : Nat → Word → List Byte
  | 0, _ => []
  | n + 1, w => w.setWidth 8 :: bytesOfWord n (w >>> 8)

/-- The decoder, total on any bytes: the instruction of the given format at the head of the bytes, and the bytes after
it. A half takes the header byte that holds it. -/
def decodeBytes (fmt : Format) (bs : List Byte) : Except DecodeError (Instr × List Byte) :=
  match fmt, bs with
  | .cmd, b0 :: b1 :: b2 :: b3 :: b4 :: b5 :: b6 :: b7 :: rest =>
      .ok (decodeCmd (wordOfBytes [b0, b1, b2, b3, b4, b5, b6, b7]), rest)
  | .slot1, h :: rest => .ok (decodeSlot1 h, rest)
  | .slot2, h :: rest => .ok (decodeSlot2 h, rest)
  | .term, _ :: rest => .ok (.term, rest)
  | f, _ => .error (.truncated f)

/-! ### The encoder -/

/-- The format an instruction is encoded in; a half is encoded in slot 2, the low nibble, where opcode_table.json
numbers its bits. -/
def Instr.format : Instr → Format
  | .nop | .config | .encode | .decode | .reserved47 _ | .reserved8F _ => .cmd
  | .halfF0 | .halfF1 | .halfF2 | .halfF3 | .halfF5 | .halfF6 | .halfF7 | .halfF8 => .slot2
  | .halfD0 | .halfD1 | .halfD2 | .halfD3 | .halfD5 | .halfD6 | .halfD7 | .halfD8 => .slot2
  | .term => .term

/-- The four bits of spec/opcode_table.json: OP of a command (R142), S and C of a half (R144). The terminator has no
fixed bits. -/
def Instr.opBits : Instr → BitVec 4
  | .nop => 0x0#4
  | .config => 0x1#4
  | .encode => 0x2#4
  | .decode => 0x3#4
  | .reserved47 op => op
  | .reserved8F op => op
  | .halfF0 => 0x0#4
  | .halfF1 => 0x1#4
  | .halfF2 => 0x2#4
  | .halfF3 => 0x3#4
  | .halfF5 => 0x4#4
  | .halfF6 => 0x5#4
  | .halfF7 => 0x6#4
  | .halfF8 => 0x7#4
  | .halfD0 => 0x8#4
  | .halfD1 => 0x9#4
  | .halfD2 => 0xA#4
  | .halfD3 => 0xB#4
  | .halfD5 => 0xC#4
  | .halfD6 => 0xD#4
  | .halfD7 => 0xE#4
  | .halfD8 => 0xF#4
  | .term => 0x0#4

/-- The header byte of two halves: slot 1 in the high nibble, slot 2 in the low one (R144). -/
def encodeHeader (i1 i2 : Instr) : Byte := i1.opBits ++ i2.opBits

/-- The bytes of a well-formed instruction: a command is a CMD word with its ignored bits 0, little-endian (R105,
R141); a half is the header byte with slot 1 all zeros; the terminator is written 0x00 (R155). -/
def encode (i : Instr) : List Byte :=
  match i.format with
  | .cmd => bytesOfWord 8 (i.opBits.setWidth 64)
  | .slot1 => [i.opBits ++ 0#4]
  | .slot2 => [0#4 ++ i.opBits]
  | .term => [0x00#8]

/-! ### The opcode table's numbering -/

/-- The format a table word of `nbits` bits is read in. The formats of R140 differ in width: a CMD word has 64 bits, a
header byte 8, and the terminator's row fixes no bit at all. The table gives CMD rows and HALF rows the same four bits,
so a word of 8 bits is read as the half in a header byte's low nibble, and a command is read from a longer word
(DESIGN CHOICE, notes/assumptions/13.md). -/
def tableFormat (nbits : Nat) : Format :=
  if nbits = 0 then .term else if nbits ≤ 8 then .slot2 else .cmd

/-- The bytes of a table word in a format, every bit above `nbits` zero, the first byte the least significant. -/
def tableBytes (nbits w : Nat) : List Byte :=
  bytesOfWord 8 (BitVec.ofNat 64 (w % 2 ^ nbits))

/-- The instruction the decoder reads from a word of spec/opcode_table.json. -/
def decodeTableWord (nbits w : Nat) : Option Instr :=
  match decodeBytes (tableFormat nbits) (tableBytes nbits w) with
  | .ok (i, _) => some i
  | .error _ => none

end Sys2Proof
end

