-- ==== Sys2Proof/Config.lean ====
section
/-! DEFINITION. What an implementation of FPC-CORE fixes, and the free values the spec leaves open: the shape of the
two context mixing functions (00_scope.md R5, R6), the synthesis parameters (R4, R7), and the source of free choices
(70_reset_and_hazards.md R383, R389). -/

namespace Sys2Proof.Config

/-- The context mixing functions HASH_F and HASH_D as one parameter: `f lsz ctx a` and `d lsz ctx delta` (R5, R6).
Their inputs are exactly the log size, the old context and one word (40_predictors.md R183). -/
structure Hashes where
  f : BitVec 6 → BitVec 32 → Word → BitVec 32
  d : BitVec 6 → BitVec 32 → Word → BitVec 32

/-- The range condition of R5 and R6: for every log size `lsz` in 1..LOG_SIZE_MAX and every context below `2 ^ lsz`,
the new context is below `2 ^ lsz`. -/
def Hashes.InRange (H : Hashes) (logSizeMax : Nat) : Prop :=
  ∀ (lsz : BitVec 6) (ctx : BitVec 32) (a : Word), 1 ≤ lsz.toNat → lsz.toNat ≤ logSizeMax →
    ctx.toNat < 2 ^ lsz.toNat → (H.f lsz ctx a).toNat < 2 ^ lsz.toNat ∧ (H.d lsz ctx a).toNat < 2 ^ lsz.toNat

/-- The parameter pair HASH_F, HASH_D a machine was built with (R5, R6), by name, so that State stays plain data. -/
inductive Mixing where
  /-- the spec's defaults (40_predictors.md R184, R189) -/
  | standard
  /-- any other pair: the `k`-th implementation's own `otherF k` and `otherD k` -/
  | other (k : Nat)
deriving DecidableEq, Repr

/-- HASH_F of an implementation that does not take the default, before its value is cut to the range R5 asks. It has no
body: it stands for any function of R5's three inputs, and no proof can rest on a value of it
(notes/assumptions/5.md). -/
opaque otherF : Nat → BitVec 6 → BitVec 32 → Word → BitVec 32

/-- HASH_D of an implementation that does not take the default, in the same way (R6, notes/assumptions/5.md). -/
opaque otherD : Nat → BitVec 6 → BitVec 32 → Word → BitVec 32

/-- The free choices: `freeChoice k` is the number the hardware picks at its `k`-th free choice. It has no body, so no
proof can rest on a value of it. Used for the prefixes of the streams after a reset during a record step (R383) and for
the record boundary a counter read shows while BUSY = 1 (R389). notes/assumptions/10.md. -/
opaque freeChoice : Nat → Nat

/-- The synthesis parameters, plain data that lives in State and that no step changes (notes/assumptions/6.md).
LOG_SIZE_MAX is `maxIdx + 1`, so it lies in 1..32 (R4); REG_BASE is `0x100 * regBasePage`, a multiple of 0x100 (R7);
`mixing` names HASH_F and HASH_D (R5, R6). -/
structure Build where
  maxIdx : Fin 32
  regBasePage : Nat
  mixing : Mixing
deriving DecidableEq, Repr

/-- Parameter LOG_SIZE_MAX: `1 ≤ LOG_SIZE_MAX ≤ 32` (R4). -/
def Build.logSizeMax (b : Build) : Nat := b.maxIdx.val + 1

/-- Parameter REG_BASE (R7). -/
def Build.regBase (b : Build) : Nat := 0x100 * b.regBasePage

end Sys2Proof.Config
end

