-- ==== Sys2Proof/Machine/State.lean ====
section
/-! DEFINITION. The state of FPC-CORE: R40's tuple (P, H, Q, S, irq) of 10_state.md, the synthesis parameters, and the
model's own record of who moves next. Plain data throughout. `State.reset` is the machine right after reset (R80). -/

namespace Sys2Proof.Machine

/-- A predictor table (R41, R42, R101): the slots that do not hold the value an unlisted slot reads as, as
(index, slot) pairs with rising indices. The smallest unit of this memory is one whole 64-bit slot, which has no bytes
and no byte order (R101), so an entry holds a word. -/
abbrev Memory := List (Nat × Word)

/-- P: the predictor state of the current instance (R41 to R47). -/
structure Predictor where
  /-- TF, the FCM table (R41) -/
  tf : Memory
  /-- TD, the DFCM table (R42) -/
  td : Memory
  /-- CTX_F (R43), LOG_SIZE_MAX ≤ 32 bits wide -/
  ctxF : BitVec 32
  /-- CTX_D (R44) -/
  ctxD : BitVec 32
  /-- LAST_D (R45) -/
  lastD : Word
  /-- LSZ (R46) -/
  lsz : BitVec 6
  /-- CONFIGURED (R47) -/
  configured : Bool
deriving DecidableEq, Repr

/-- H: the host registers that have storage of their own (R50 to R59). CMD has none (R51); STATUS.BUSY, CONFIGURED and
LSZ are views of Q and P (R70, R47, R46). VALUES is also the sequencer's position (R70). -/
structure HostRegs where
  /-- CFG.LOG_SIZE (R52) -/
  logSize : BitVec 6
  /-- COUNT (R53) -/
  count : Word
  /-- CAPACITY (R54) -/
  capacity : Word
  /-- SRC_LEN (R55) -/
  srcLen : Word
  /-- STATUS.DONE (R56) -/
  done : Bool
  /-- STATUS.ERR (R56) -/
  err : Bool
  /-- STATUS.ERRCODE (R56, R330) -/
  errCode : BitVec 4
  /-- STATUS.LAST_OP (R56) -/
  lastOp : BitVec 4
  /-- BYTES (R57) -/
  bytes : Word
  /-- VALUES (R58) -/
  values : Word
  /-- IRQ_EN.DONE_IE (R59) -/
  doneIe : Bool
  /-- IRQ_EN.ERR_IE (R59) -/
  errIe : Bool
deriving DecidableEq, Repr

/-- ACT, the command in progress (R70). -/
inductive Act where
  | idle
  | config
  | encode
  | decode
deriving DecidableEq, Repr

/-- Q: the sequencer (R70); its position is VALUES. -/
structure Sequencer where
  act : Act
  /-- N, the count latched from COUNT (R70) -/
  n : Word
deriving DecidableEq, Repr

/-- S: the four stream ports (R72), each a list whose head is the oldest element. -/
structure Ports where
  vin : List Word
  bout : List Byte
  bin : List Byte
  vout : List Word
deriving DecidableEq, Repr

/-- The progress counters a host can read during a command (70_reset_and_hazards.md R389). -/
structure Counters where
  bytes : Word
  values : Word
  capacity : Word
  srcLen : Word
deriving DecidableEq, Repr

/-- What the host bus answered to the last access (44_commands.md R307, R308, R310). -/
inductive BusResponse where
  /-- no access yet -/
  | none
  /-- a read returned this register value -/
  | data (w : Word)
  /-- a write was accepted by the bus (whether or not it had an effect, R311) -/
  | written
  /-- bus error (R310) -/
  | error
deriving DecidableEq, Repr

/-- One action of the world outside the block (20_memory.md R119, R112; 70_reset_and_hazards.md R380, R383). -/
inductive OutsideAction where
  /-- a host bus read of `width` bits at byte address `addr` -/
  | busRead (addr width : Nat)
  /-- a host bus write of `width` bits at byte address `addr` -/
  | busWrite (addr width : Nat) (data : Word)
  /-- the host pushes a value to VIN -/
  | pushVin (v : Word)
  /-- the host pushes a byte to BIN -/
  | pushBin (b : Byte)
  /-- the host pops the oldest byte of BOUT; of an empty BOUT, DESIGN CHOICE: nothing changes (notes/assumptions/19.md) -/
  | popBout
  /-- the host pops the oldest value of VOUT; of an empty VOUT, DESIGN CHOICE: nothing changes (notes/assumptions/19.md) -/
  | popVout
  /-- the host discards the oldest value left on VIN (70_reset_and_hazards.md R390, notes/assumptions/20.md) -/
  | discardVin
  /-- the host discards the oldest byte left on BIN (70_reset_and_hazards.md R390, notes/assumptions/20.md) -/
  | discardBin
  /-- reset is asserted and released between two steps of the block (R380); DESIGN CHOICE: one action, with no state in
  which reset is held (notes/assumptions/22.md) -/
  | reset
  /-- reset is asserted while a record step is under way (R383), and released; one action in the same way
  (notes/assumptions/22.md) -/
  | resetMidRecord
deriving DecidableEq, Repr

/-- Who takes the next step (R112): the block, or the world outside with one action. -/
inductive Turn where
  | block
  | outside (act : OutsideAction)
deriving DecidableEq, Repr

/-- The model's own fields, none of them the spec's: the interleaving still to come, the bus's last answer, how many
free choices were drawn, and the record boundaries a counter read may still show. -/
structure Env where
  /-- the turns to come, the next one first; when none is left the block moves (notes/assumptions/1.md) -/
  turns : List Turn
  /-- the bus's answer to the last access (notes/assumptions/12.md) -/
  bus : BusResponse
  /-- free choices drawn so far (notes/assumptions/10.md) -/
  draws : Nat
  /-- boundaries of the running command not earlier than the last counter read (notes/assumptions/11.md) -/
  marks : List Counters
deriving DecidableEq, Repr

/-- The state of the machine. -/
structure State where
  /-- P (R40) -/
  pred : Predictor
  /-- H (R40) -/
  regs : HostRegs
  /-- Q (R40) -/
  seq : Sequencer
  /-- S (R40) -/
  ports : Ports
  /-- the interrupt output (R73) -/
  irq : Bool
  /-- LOG_SIZE_MAX, REG_BASE, HASH_F and HASH_D (00_scope.md R4 to R7) -/
  build : Config.Build
  /-- the model's own fields -/
  env : Env
deriving DecidableEq, Repr

/-- The machine has no fault: the five errors of 60_exceptions.md R330 and the host bus error (R336) are reported and
the block goes on, and no rule gives a behaviour that stops it. So the type has no constructor. -/
inductive Fault where
deriving DecidableEq, Repr

/-- Why a step has no meaning. -/
inductive Refusal where
  /-- raised by `exec` for an instruction whose meaning is not written; safe, since nothing is claimed of it. No arm
  of `exec` raises it. -/
  | notModelled (mnemonic : String)
deriving DecidableEq, Repr

/-- The host registers after reset (R80). -/
def HostRegs.reset : HostRegs where
  logSize := 0
  count := 0
  capacity := 0
  srcLen := 0
  done := false
  err := false
  errCode := 0
  lastOp := 0
  bytes := 0
  values := 0
  doneIe := false
  errIe := false

/-- The machine right after reset (R80, R380): no instance, every register 0, the sequencer idle, `irq` 0. The spec
leaves TF and TD unspecified (R382): every slot reads 0 here (DESIGN CHOICE, notes/assumptions/8.md). The streams are
not the block's state: empty here (DESIGN CHOICE, notes/assumptions/9.md). LOG_SIZE_MAX is 16 and REG_BASE 0 here
(DESIGN CHOICE, notes/assumptions/6.md), and the mixing functions are the spec's defaults (DESIGN CHOICE,
notes/assumptions/5.md). -/
def State.reset : State where
  pred := { tf := [], td := [], ctxF := 0, ctxD := 0, lastD := 0, lsz := 0, configured := false }
  regs := HostRegs.reset
  seq := { act := .idle, n := 0 }
  ports := { vin := [], bout := [], bin := [], vout := [] }
  irq := false
  build := { maxIdx := 15, regBasePage := 0, mixing := .standard }
  env := { turns := [], bus := .none, draws := 0, marks := [] }

end Sys2Proof.Machine
end

