-- ==== Sys2Proof/Machine/Flags.lean ====
section
/-! DEFINITION. Every flag of FPC-CORE: the STATUS register and what sets and clears its bits, the error codes, and
the interrupt level (10_state.md R56, R59, R61, R73; 44_commands.md R302, R309; 60_exceptions.md R330). The datapath
has no condition codes (R61). -/

namespace Sys2Proof.Machine

/-- The five block errors (R330). -/
inductive BlockError where
  | configuration
  | capacityExhausted
  | underflow
  | illegalCommand
  | notConfigured
deriving DecidableEq, Repr

/-- ERRCODE of an error (R330). -/
def errorCode : BlockError → BitVec 4
  | .configuration => 1#4
  | .capacityExhausted => 2#4
  | .underflow => 3#4
  | .illegalCommand => 4#4
  | .notConfigured => 5#4

/-- Whether an error ends the instance: codes 1, 2 and 3 (R330, R340). -/
def endsInstance : BlockError → Bool
  | .configuration | .capacityExhausted | .underflow => true
  | .illegalCommand | .notConfigured => false

/-- STATUS.BUSY: 1 exactly when a command is in progress (R70). -/
def State.busy (s : State) : Bool := s.seq.act != .idle

/-- One bit as a vector, for placing flags in a register. -/
def flagBit (b : Bool) : BitVec 1 := BitVec.ofBool b

/-- The STATUS register as the host reads it: LAST_OP at bits 19..16, LSZ at 13..8, ERRCODE at 7..4, CONFIGURED, ERR,
DONE, BUSY at 3..0, every reserved bit 0 (R56, R307). -/
def State.statusWord (s : State) : Word :=
  0#44 ++ s.regs.lastOp ++ 0#2 ++ s.pred.lsz ++ s.regs.errCode ++ flagBit s.pred.configured ++ flagBit s.regs.err
    ++ flagBit s.regs.done ++ flagBit s.busy

/-- The IRQ_EN register as the host reads it: ERR_IE at bit 1, DONE_IE at bit 0 (R59, R307). -/
def State.irqEnWord (s : State) : Word := 0#62 ++ flagBit s.regs.errIe ++ flagBit s.regs.doneIe

/-- The level of the interrupt output (R73, R345). -/
def State.irqLevel (s : State) : Bool := (s.regs.done && s.regs.doneIe) || (s.regs.err && s.regs.errIe)

/-- The interrupt output is re-evaluated, as after every step (R73). -/
def State.settleIrq (s : State) : State := { s with irq := s.irqLevel }

/-- The prologue's flag writes: DONE, ERR and ERRCODE cleared, LAST_OP recorded (R302). -/
def HostRegs.clearFlags (r : HostRegs) (op : BitVec 4) : HostRegs :=
  { r with done := false, err := false, errCode := 0, lastOp := op }

/-- The flag writes of an error: ERR and ERRCODE (R340). -/
def HostRegs.setError (r : HostRegs) (e : BlockError) : HostRegs :=
  { r with err := true, errCode := errorCode e }

/-- STATUS write-1-to-clear: bit 1 clears DONE, bit 2 clears ERR and ERRCODE, every other bit is ignored (R309). -/
def HostRegs.writeOneToClear (r : HostRegs) (w : Word) : HostRegs :=
  { r with
    done := r.done && !w.getLsbD 1
    err := r.err && !w.getLsbD 2
    errCode := if w.getLsbD 2 then 0 else r.errCode }

end Sys2Proof.Machine
end

