-- ==== Sys2Proof/Machine/Operands.lean ====
section
/-! DEFINITION. The operand forms of FPC-CORE: header codes, payload lengths and payload bytes (30_encoding.md R144,
R150 to R153; 41_residual_select.md R213, R217 to R220). The operands of a command are registers and need no form of
their own (R143). -/

namespace Sys2Proof.Machine

/-- The largest `k ≤ n` with the top `k` bytes of `r` zero (R213), for `n ≤ 8`. -/
def lzbUpTo (r : Word) : Nat → Nat
  | 0 => 0
  | k + 1 => if r.toNat < 2 ^ (64 - 8 * (k + 1)) then k + 1 else lzbUpTo r k

/-- The leading-zero-byte count of a residual (R213). -/
def lzb (r : Word) : Nat := if r = 0#64 then 8 else lzbUpTo r 7

/-- The header code of a leading-zero-byte count: counts 3 and 4 share code 3 (R150). -/
def codeOf (z : Nat) : BitVec 3 := if z ≤ 3 then BitVec.ofNat 3 z else BitVec.ofNat 3 (z - 1)

/-- The leading-zero-byte count the decoder assumes for a code (R151). -/
def inv (c : BitVec 3) : Nat := if c.toNat ≤ 3 then c.toNat else c.toNat + 1

/-- The payload length of a code, on both sides: derived from the code, never from the true count (R152, R218). -/
def nbytes (c : BitVec 3) : Nat := 8 - inv c

/-- The serialiser: bytes `0 .. n-1` of a residual, least significant first (R153, R219). -/
def ser (r : Word) : Nat → List Byte
  | 0 => []
  | n + 1 => r.setWidth 8 :: ser (r >>> 8) n

/-- The deserialiser: the bytes as a little-endian number, zero-extended to 64 bits (R220). -/
def des : List Byte → Word
  | [] => 0
  | b :: bs => b.setWidth 64 ||| (des bs <<< 8)

/-- The selector bit of an engine: FCM 0, DFCM 1 (R145). -/
def selectorBit : Engine → BitVec 1
  | .fcm => 0#1
  | .dfcm => 1#1

/-- The header byte `(S1 << 7) | (C1 << 4) | (S2 << 3) | C2` (R144). -/
def packHeader (s1 : Engine) (c1 : BitVec 3) (s2 : Engine) (c2 : BitVec 3) : Byte :=
  selectorBit s1 ++ c1 ++ selectorBit s2 ++ c2

/-- C1 of a header byte (R144). -/
def headerCode1 (h : Byte) : BitVec 3 := h.extractLsb' 4 3

/-- C2 of a header byte (R144). -/
def headerCode2 (h : Byte) : BitVec 3 := h.extractLsb' 0 3

end Sys2Proof.Machine
end

