-- ==== Sys2Proof/Machine/Ops.lean ====
section
/-! DEFINITION. The named operations the meanings share: table slots (20_memory.md R101), command acceptance and
prologue (44_commands.md R300, R302), the error entry `raise` (60_exceptions.md R340; there is no return from it,
R343), starting and completing a command (R70, R246, R278), popping bytes of BIN (R55, R272), record boundaries
(70_reset_and_hazards.md R389) and free choices. -/

namespace Sys2Proof.Machine

/-! ### Table slots -/

/-- What a slot that is not listed reads as: 0, as CONFIG leaves it (R194, R303); before the first CONFIG a DESIGN
CHOICE (R382, notes/assumptions/8.md). -/
def blankSlot : Word := 0

/-- Slot `i` of a table (R101). -/
def Memory.read : Memory → Nat → Word
  | [], _ => blankSlot
  | (j, w) :: m, i => if i = j then w else Memory.read m i

/-- Slot `i` set to `v`; the canonical form is kept, so a slot set to `blankSlot` is unlisted. -/
def Memory.write : Memory → Nat → Word → Memory
  | [], i, v => if v = blankSlot then [] else [(i, v)]
  | (j, w) :: m, i, v =>
    if i < j then (if v = blankSlot then (j, w) :: m else (i, v) :: (j, w) :: m)
    else if i = j then (if v = blankSlot then m else (i, v) :: m)
    else (j, w) :: Memory.write m i v

/-- Slots `0 .. bound-1` cleared to 0, the others kept: what CONFIG does to a table (R303). -/
def Memory.clearBelow (m : Memory) (bound : Nat) : Memory := m.filter (fun cell => bound ≤ cell.1)

/-- The canonical form: indices strictly rising, no entry equal to what an unlisted slot reads as. -/
abbrev Memory.wf (m : Memory) : Prop :=
  m.Pairwise (fun a b => a.1 < b.1) ∧ ∀ cell ∈ m, cell.2 ≠ blankSlot

/-! ### Record boundaries and free choices -/

/-- The progress counters as they stand. -/
def State.counters (s : State) : Counters where
  bytes := s.regs.bytes
  values := s.regs.values
  capacity := s.regs.capacity
  srcLen := s.regs.srcLen

/-- A record boundary is reached: from now on a counter read may show the counters as they stand (R389). -/
def State.mark (s : State) : State := { s with env := { s.env with marks := s.env.marks ++ [s.counters] } }

/-- The `k`-th next free choice, a number below `bound` (0 when `bound` is 0). -/
def State.choice (s : State) (k bound : Nat) : Nat := Config.freeChoice (s.env.draws + k) % bound

/-! ### Commands -/

/-- Command acceptance: a command write while BUSY = 1 is ignored (R300, R311). -/
def State.accept (s : State) (run : State → State) : State := if s.busy then s else run s

/-- The prologue of every accepted command but NOP (R302). -/
def State.prologue (s : State) (op : BitVec 4) : State := { s with regs := s.regs.clearFlags op }

/-- ACT set, nothing else (R70). -/
def State.withAct (s : State) (act : Act) : State := { s with seq := { s.seq with act := act } }

/-- TAKING AN ERROR, the one error entry (R340): the command stops, ERR and ERRCODE are set, DONE stays as it is, and
the fatal errors end the instance. The block has no handler, saves nothing else (R342) and has no return (R343). -/
def State.raise (s : State) (e : BlockError) : State :=
  { s with
    seq := { s.seq with act := .idle }
    regs := s.regs.setError e
    pred := if endsInstance e then { s.pred with configured := false, lsz := 0 } else s.pred
    env := { s.env with marks := [] } }

/-- Successful completion: ACT idle, DONE set (R246, R278, R303). -/
def State.complete (s : State) : State :=
  { s with
    seq := { s.seq with act := .idle }
    regs := { s.regs with done := true }
    env := { s.env with marks := [] } }

/-- The start of ENCODE or DECODE under an instance: ACT set, COUNT latched into N, BYTES and VALUES cleared (R240,
R270). This is the first record boundary of the command (R389). -/
def State.start (s : State) (act : Act) : State :=
  let regs := { s.regs with bytes := 0, values := 0 }
  { s with
    seq := { act := act, n := s.regs.count }
    regs := regs
    env := { s.env with
      marks := [{ bytes := 0, values := 0, capacity := s.regs.capacity, srcLen := s.regs.srcLen }] } }

/-- ENCODE and DECODE after the prologue: the instance check comes before any other effect (R306, R335, R339). -/
def State.startUnderInstance (s : State) (act : Act) : State :=
  if s.pred.configured then s.start act else s.raise .notConfigured

/-! ### Bytes of BIN -/

/-- The state after the oldest `k` bytes are popped from BIN: SRC_LEN and BYTES count them (R55, R57). -/
def State.takeBin (s : State) (k : Nat) : State :=
  { s with
    ports := { s.ports with bin := s.ports.bin.drop k }
    regs := { s.regs with
      srcLen := s.regs.srcLen - BitVec.ofNat 64 k
      bytes := s.regs.bytes + BitVec.ofNat 64 k } }

/-- The parser's guard around an operation that pops `k` bytes of BIN: BIN is popped only by DECODE (R72); more than
SRC_LEN is never popped, an attempt is an underflow (R55, R333); a missing byte is waited for, which changes nothing
(R391). In a record step none of the three is met, since the step checks the whole record first (R271 to R273);
DEDUCED for any other state, notes/assumptions/14.md. -/
def State.parse (s : State) (k : Nat) (run : State → State) : State :=
  if s.seq.act ≠ .decode then s
  else if s.regs.srcLen.toNat < k then s.raise .underflow
  else if s.ports.bin.length < k then s
  else run (s.takeBin k)

/-! ### Outcomes -/

/-- The outcome of a step of the machine. -/
abbrev StepOutcome := Host.Outcome State Fault Refusal

/-- Run a further part of one atomic step. -/
def andThen (o : StepOutcome) (run : State → StepOutcome) : StepOutcome :=
  match o with
  | .next s => run s
  | .fault r => .fault r
  | .refused r => .refused r

end Sys2Proof.Machine
end

