-- ==== Sys2Proof/Machine/Predictors.lean ====
section
/-! DEFINITION. The FCM and DFCM lookup engines (40_predictors.md R180 to R194), the residual units, the selector mux
and the two per-value operations `encHalf` and `decHalf` (41_residual_select.md R210 to R223), over any pair of
context mixing functions; and the pair a machine was built with (00_scope.md R5, R6), by default that of R184 and
R189. -/

namespace Sys2Proof.Machine

/-! ### The mixing functions -/

/-- `mask(n) = 2^n - 1` on 64 bits (00_scope.md R10). -/
def maskWord (n : Nat) : Word := (1#64 <<< n) - 1#64

/-- The default HASH_F: `((ctx << 6) ^ (a >> 48)) & mask(lsz)` in 64-bit arithmetic (R184). -/
def hashF (lsz : BitVec 6) (ctx : BitVec 32) (a : Word) : BitVec 32 :=
  ((((ctx.setWidth 64 <<< 6) ^^^ (a >>> 48)) &&& maskWord lsz.toNat)).setWidth 32

/-- The default HASH_D: `((ctx << 2) ^ (d >> 40)) & mask(lsz)` in 64-bit arithmetic (R189). -/
def hashD (lsz : BitVec 6) (ctx : BitVec 32) (d : Word) : BitVec 32 :=
  ((((ctx.setWidth 64 <<< 2) ^^^ (d >>> 40)) &&& maskWord lsz.toNat)).setWidth 32

/-- The default pair (R184, R189). -/
def defaultHashes : Config.Hashes := { f := hashF, d := hashD }

/-- The low `lsz` bits of a context: what keeps an implementation's own mixing function in the range of R5 and R6. On a
function that meets the range it changes nothing. -/
def cutToRange (lsz : BitVec 6) (ctx : BitVec 32) : BitVec 32 :=
  (ctx.setWidth 64 &&& maskWord lsz.toNat).setWidth 32

/-- The pair a parameter names (R5, R6). -/
def mixingHashes : Config.Mixing → Config.Hashes
  | .standard => defaultHashes
  | .other k =>
    { f := fun lsz ctx a => cutToRange lsz (Config.otherF k lsz ctx a)
      d := fun lsz ctx d => cutToRange lsz (Config.otherD k lsz ctx d) }

/-- HASH_F and HASH_D of the machine: those it was built with (R5, R6). -/
def State.hashes (s : State) : Config.Hashes := mixingHashes s.build.mixing

/-! ### The engines -/

/-- The FCM prediction: a pure read (R180). -/
def Predictor.predF (p : Predictor) : Word := Memory.read p.tf p.ctxF.toNat

/-- The DFCM prediction: LAST_D plus the predicted delta, wrapping (R185). -/
def Predictor.predD (p : Predictor) : Word := p.lastD + Memory.read p.td p.ctxD.toNat

/-- The FCM update: the slot the prediction came from, then the context, from the old context (R181). -/
def Predictor.updF (H : Config.Hashes) (a : Word) (p : Predictor) : Predictor :=
  { p with
    tf := Memory.write p.tf p.ctxF.toNat a
    ctxF := H.f p.lsz p.ctxF a }

/-- The DFCM update: the delta into the slot, the context from the old context, then LAST_D (R186). -/
def Predictor.updD (H : Config.Hashes) (a : Word) (p : Predictor) : Predictor :=
  let d := a - p.lastD
  { p with
    td := Memory.write p.td p.ctxD.toNat d
    ctxD := H.d p.lsz p.ctxD d
    lastD := a }

/-- Both engines observe one actual value (R190, R191). -/
def Predictor.observe (H : Config.Hashes) (a : Word) (p : Predictor) : Predictor := (p.updF H a).updD H a

/-- The prediction of one engine. -/
def Predictor.predict (p : Predictor) : Engine → Word
  | .fcm => p.predF
  | .dfcm => p.predD

/-- The predictor state of a fresh instance of log size `lsz`: reachable slots, contexts and LAST_D zero (R194, R303);
slots at and above `2 ^ lsz` are kept (D25). -/
def Predictor.fresh (p : Predictor) (lsz : BitVec 6) : Predictor where
  tf := Memory.clearBelow p.tf (2 ^ lsz.toNat)
  td := Memory.clearBelow p.td (2 ^ lsz.toNat)
  ctxF := 0
  ctxD := 0
  lastD := 0
  lsz := lsz
  configured := true

/-! ### Residuals and selection -/

/-- The selector mux: DFCM exactly when its residual has strictly more leading zero bytes (R215, C1). -/
def selectEngine (rF rD : Word) : Engine := if lzb rF < lzb rD then .dfcm else .fcm

/-- What the formatter sends for one value: selector, code and payload (R222). -/
structure HalfCode where
  engine : Engine
  code : BitVec 3
  payload : List Byte
deriving DecidableEq, Repr

/-- The half of an actual value under the predictions as they stand (R210, R211, R215 to R219). -/
def Predictor.halfOf (p : Predictor) (a : Word) : HalfCode :=
  let rF := p.predF ^^^ a
  let rD := p.predD ^^^ a
  let e := selectEngine rF rD
  let r := match e with
    | .fcm => rF
    | .dfcm => rD
  let c := codeOf (lzb r)
  { engine := e, code := c, payload := ser r (nbytes c) }

/-- Encode one real value: its half, and the predictor state after both engines observed it (R222). -/
def encHalf (H : Config.Hashes) (p : Predictor) (a : Word) : HalfCode × Predictor := (p.halfOf a, p.observe H a)

/-- Decode one real value: the payload XOR the selected engine's current prediction, and the predictor state after both
engines observed it (R223). -/
def decHalf (H : Config.Hashes) (p : Predictor) (e : Engine) (payload : List Byte) : Word × Predictor :=
  let a := des payload ^^^ p.predict e
  (a, p.observe H a)

end Sys2Proof.Machine
end

