-- ==== Sys2Proof/Machine/Commands.lean ====
section
/-! DEFINITION. The meanings of the six CMD rows (44_commands.md R300 to R306; 42_encode.md R240; 43_decode.md R270).
Each is the whole reaction of the block to the accepted or ignored command write. -/

namespace Sys2Proof.Machine

/-- NOP: nothing changes, idle or busy (R301). -/
def execNop (s : State) : StepOutcome := .next (s.accept fun s => s)

/-- The CONFIG step: CFG.LOG_SIZE is checked before anything is written (R303, R304, R339); a legal size makes a fresh
instance, an illegal one raises ConfigurationError. -/
def State.configStep (s : State) : State :=
  let lsz := s.regs.logSize
  if lsz.toNat = 0 ∨ s.build.logSizeMax < lsz.toNat then s.raise .configuration
  else { s with pred := s.pred.fresh lsz }.complete

/-- CONFIG: prologue, then the one CONFIG step (R303). -/
def execConfig (s : State) : StepOutcome :=
  .next (s.accept fun s => ((s.prologue 1#4).withAct .config).configStep)

/-- ENCODE: prologue, instance check, start (R240). Its record steps are the block's own further steps. -/
def execEncode (s : State) : StepOutcome :=
  .next (s.accept fun s => (s.prologue 2#4).startUnderInstance .encode)

/-- DECODE: prologue, instance check, start (R270). Its record steps are the block's own further steps. -/
def execDecode (s : State) : StepOutcome :=
  .next (s.accept fun s => (s.prologue 3#4).startUnderInstance .decode)

/-- A reserved opcode: prologue, then IllegalCommand (R305, R334). -/
def State.illegalCommand (s : State) (op : BitVec 4) : State := (s.prologue op).raise .illegalCommand

/-- OP 0x4 to 0x7 (R305). -/
def execReserved47 (op : BitVec 4) (s : State) : StepOutcome := .next (s.accept fun s => s.illegalCommand op)

/-- OP 0x8 to 0xF (R305). -/
def execReserved8F (op : BitVec 4) (s : State) : StepOutcome := .next (s.accept fun s => s.illegalCommand op)

end Sys2Proof.Machine
end

