-- ==== Sys2Proof/Machine/Halves.lean ====
section
/-! DEFINITION. The meanings of the HALF rows and of TERM: what the parser does with one slot of a header byte
(43_decode.md R274 to R277) and with the terminator of a padding record (R276). The slot is known from the position:
while VALUES < N the slot is a real one, and in a padding record VALUES has reached N after slot 1 (R70, R271). -/

namespace Sys2Proof.Machine

/-- One half of engine `e` and code `c`: its `nbytes c` payload bytes are popped. A real slot decodes them, both engines
observe the value and it goes to VOUT (R223, R274, R275, R277); the synthetic slot of a padding record discards them,
and neither engine observes anything (R276). -/
def State.runHalf (s : State) (e : Engine) (c : BitVec 3) : State :=
  s.parse (nbytes c) fun t =>
    if t.regs.values.toNat < t.seq.n.toNat then
      let (a, p) := decHalf s.hashes t.pred e (s.ports.bin.take (nbytes c))
      { t with
        pred := p
        ports := { t.ports with vout := t.ports.vout ++ [a] }
        regs := { t.regs with values := t.regs.values + 1#64 } }
    else t

/-- HALF.F0 (R223) -/
def execHalfF0 (s : State) : StepOutcome := .next (s.runHalf .fcm 0#3)
/-- HALF.F1 (R223) -/
def execHalfF1 (s : State) : StepOutcome := .next (s.runHalf .fcm 1#3)
/-- HALF.F2 (R223) -/
def execHalfF2 (s : State) : StepOutcome := .next (s.runHalf .fcm 2#3)
/-- HALF.F3 (R223) -/
def execHalfF3 (s : State) : StepOutcome := .next (s.runHalf .fcm 3#3)
/-- HALF.F5 (R223) -/
def execHalfF5 (s : State) : StepOutcome := .next (s.runHalf .fcm 4#3)
/-- HALF.F6 (R223) -/
def execHalfF6 (s : State) : StepOutcome := .next (s.runHalf .fcm 5#3)
/-- HALF.F7 (R223) -/
def execHalfF7 (s : State) : StepOutcome := .next (s.runHalf .fcm 6#3)
/-- HALF.F8 (R223) -/
def execHalfF8 (s : State) : StepOutcome := .next (s.runHalf .fcm 7#3)
/-- HALF.D0 (R223) -/
def execHalfD0 (s : State) : StepOutcome := .next (s.runHalf .dfcm 0#3)
/-- HALF.D1 (R223) -/
def execHalfD1 (s : State) : StepOutcome := .next (s.runHalf .dfcm 1#3)
/-- HALF.D2 (R223) -/
def execHalfD2 (s : State) : StepOutcome := .next (s.runHalf .dfcm 2#3)
/-- HALF.D3 (R223) -/
def execHalfD3 (s : State) : StepOutcome := .next (s.runHalf .dfcm 3#3)
/-- HALF.D5 (R223) -/
def execHalfD5 (s : State) : StepOutcome := .next (s.runHalf .dfcm 4#3)
/-- HALF.D6 (R223) -/
def execHalfD6 (s : State) : StepOutcome := .next (s.runHalf .dfcm 5#3)
/-- HALF.D7 (R223) -/
def execHalfD7 (s : State) : StepOutcome := .next (s.runHalf .dfcm 6#3)
/-- HALF.D8 (R223) -/
def execHalfD8 (s : State) : StepOutcome := .next (s.runHalf .dfcm 7#3)

/-- TERM: one byte is popped and its value ignored (R276, R279). -/
def execTerm (s : State) : StepOutcome := .next (s.parse 1 fun t => t)

end Sys2Proof.Machine
end

