-- ==== Sys2Proof/Machine/Dispatch.lean ====
section
/-! DEFINITION. One arm per instruction. -/

namespace Sys2Proof.Machine

def exec (i : Instr) (s : State) : Host.Outcome State Fault Refusal :=
  match i with
  | .nop => Sys2Proof.Machine.execNop s
  | .config => Sys2Proof.Machine.execConfig s
  | .encode => Sys2Proof.Machine.execEncode s
  | .decode => Sys2Proof.Machine.execDecode s
  | .reserved47 op => Sys2Proof.Machine.execReserved47 op s
  | .reserved8F op => Sys2Proof.Machine.execReserved8F op s
  | .halfF0 => Sys2Proof.Machine.execHalfF0 s
  | .halfF1 => Sys2Proof.Machine.execHalfF1 s
  | .halfF2 => Sys2Proof.Machine.execHalfF2 s
  | .halfF3 => Sys2Proof.Machine.execHalfF3 s
  | .halfF5 => Sys2Proof.Machine.execHalfF5 s
  | .halfF6 => Sys2Proof.Machine.execHalfF6 s
  | .halfF7 => Sys2Proof.Machine.execHalfF7 s
  | .halfF8 => Sys2Proof.Machine.execHalfF8 s
  | .halfD0 => Sys2Proof.Machine.execHalfD0 s
  | .halfD1 => Sys2Proof.Machine.execHalfD1 s
  | .halfD2 => Sys2Proof.Machine.execHalfD2 s
  | .halfD3 => Sys2Proof.Machine.execHalfD3 s
  | .halfD5 => Sys2Proof.Machine.execHalfD5 s
  | .halfD6 => Sys2Proof.Machine.execHalfD6 s
  | .halfD7 => Sys2Proof.Machine.execHalfD7 s
  | .halfD8 => Sys2Proof.Machine.execHalfD8 s
  | .term => Sys2Proof.Machine.execTerm s

end Sys2Proof.Machine
end

