-- ==== Sys2Proof/Machine/Encode.lean ====
section
/-! DEFINITION. The block's steps while ENCODE runs: the header and payload formatter (42_encode.md R240 to R246). -/

namespace Sys2Proof.Machine

/-- The end of a record step of ENCODE: the capacity check, then all of the record's bytes, or none and
CapacityExhausted (R244, R245, R247). `nvals` is the number of real values of the record. -/
def State.emitRecord (s : State) (record : List Byte) (nvals : Nat) : State :=
  if s.regs.capacity.toNat < record.length then s.raise .capacityExhausted
  else
    { s with
      ports := { s.ports with bout := s.ports.bout ++ record }
      regs := { s.regs with
        capacity := s.regs.capacity - BitVec.ofNat 64 record.length
        bytes := s.regs.bytes + BitVec.ofNat 64 record.length
        values := s.regs.values + BitVec.ofNat 64 nvals } }.mark

/-- The full record step: two real values, slot 2 under the predictor state slot 1 left (R242). -/
def State.fullRecord (s : State) (a1 a2 : Word) (rest : List Word) : State :=
  let (h1, p1) := encHalf s.hashes s.pred a1
  let (h2, p2) := encHalf s.hashes p1 a2
  { s with pred := p2, ports := { s.ports with vin := rest } }.emitRecord
    (packHeader h1.engine h1.code h2.engine h2.code :: (h1.payload ++ h2.payload)) 2

/-- The padding record step: the last value of an odd count; the synthetic slot 2 is `S2 = 0, C2 = 7`, pops nothing and
is observed by neither engine, and the terminator 0x00 follows (R243). -/
def State.paddingRecord (s : State) (a1 : Word) (rest : List Word) : State :=
  let (h1, p1) := encHalf s.hashes s.pred a1
  { s with pred := p1, ports := { s.ports with vin := rest } }.emitRecord
    (packHeader h1.engine h1.code .fcm 7#3 :: (h1.payload ++ [0x00#8])) 1

/-- The record step of ENCODE: full while two values are left to encode, padding for a last single one; it waits,
changing nothing, while VIN lacks a value it pops (R240, R241, R391). -/
def State.encodeRecordStep (s : State) : State :=
  if 2 ≤ s.seq.n.toNat - s.regs.values.toNat then
    match s.ports.vin with
    | a1 :: a2 :: rest => s.fullRecord a1 a2 rest
    | _ => s
  else
    match s.ports.vin with
    | a1 :: rest => s.paddingRecord a1 rest
    | [] => s

/-- The block's step while ACT = ENCODE: a record step while VALUES < N, else the end of the command (R240, R246). -/
def State.encodeStep (s : State) : State :=
  if s.regs.values.toNat < s.seq.n.toNat then s.encodeRecordStep else s.complete

end Sys2Proof.Machine
end

