-- ==== Sys2Proof/Machine/Parser.lean ====
section
/-! DEFINITION. The block's steps while DECODE runs: the header and payload parser (43_decode.md R270 to R278). A
record step fetches one header byte and runs its two halves, and in a padding record the terminator, as instructions,
all in one atomic step (R271). -/

namespace Sys2Proof.Machine

/-- Whether the record at the position is a padding record: known from N and the position alone (R271, R272). -/
def State.atPadding (s : State) : Bool := s.regs.values.toNat + 1 == s.seq.n.toNat

/-- The body bytes a record with header `h` needs (R273). -/
def bodyLength (h : Byte) (pad : Bool) : Nat :=
  nbytes (headerCode1 h) + nbytes (headerCode2 h) + (if pad then 1 else 0)

/-- The record's instructions after the header is popped: slot 1, slot 2 and, in a padding record, the terminator. -/
def runRecord (h : Byte) (pad : Bool) (s : State) : StepOutcome :=
  andThen (andThen (exec (decodeSlot1 h) s) (exec (decodeSlot2 h)))
    fun t => andThen (if pad then exec .term t else .next t) fun u => .next u.mark

/-- The record step of DECODE (R271 to R277): header check, header fetch, body check, slots, boundary. Nothing is
popped while BIN lacks a byte the step pops (R271, R391). -/
def State.decodeRecordStep (s : State) : StepOutcome :=
  if s.regs.srcLen.toNat = 0 then .next (s.raise .underflow)
  else
    match s.ports.bin with
    | [] => .next s
    | h :: body =>
      if s.regs.srcLen.toNat - 1 < bodyLength h s.atPadding then .next ((s.takeBin 1).raise .underflow)
      else if body.length < bodyLength h s.atPadding then .next s
      else runRecord h s.atPadding (s.takeBin 1)

/-- The block's step while ACT = DECODE: a record step while VALUES < N, else the end of the command (R270, R278). -/
def State.decodeStep (s : State) : StepOutcome :=
  if s.regs.values.toNat < s.seq.n.toNat then s.decodeRecordStep else .next s.complete

/-- The block's own next step (R112): idle, it waits for a command; the CONFIG step belongs to its command write, so
ACT = CONFIG is never met between steps (R71, notes/assumptions/16.md). -/
def State.blockStep (s : State) : StepOutcome :=
  match s.seq.act with
  | .idle => .next s
  | .config => .next s.configStep
  | .encode => .next s.encodeStep
  | .decode => s.decodeStep

end Sys2Proof.Machine
end

