-- ==== Sys2Proof/Machine/Outside.lean ====
section
/-! DEFINITION. What the world outside the block can do: host register accesses (44_commands.md R307 to R311), stream
pushes, pops and discards (20_memory.md R119; R390), and reset (70_reset_and_hazards.md R380, R382, R383). -/

namespace Sys2Proof.Machine

/-- The nine registers of the window (10_state.md R50). -/
inductive Reg where
  | cmd
  | cfg
  | count
  | capacity
  | srcLen
  | status
  | bytes
  | values
  | irqEn
deriving DecidableEq, Repr

/-- The register at an offset; reserved offsets hold none (R50, R60). -/
def regAt (offset : Nat) : Option Reg :=
  match offset with
  | 0x00 => some .cmd
  | 0x08 => some .cfg
  | 0x10 => some .count
  | 0x18 => some .capacity
  | 0x20 => some .srcLen
  | 0x28 => some .status
  | 0x30 => some .bytes
  | 0x38 => some .values
  | 0x40 => some .irqEn
  | _ => none

/-- What a bus access at an address is to the block. -/
inductive Access where
  /-- beginning outside the window of 0x100 bytes at REG_BASE (R102): not an access to this block
  (notes/assumptions/12.md, 21.md) -/
  | elsewhere
  /-- not 64 bits wide, not 8-byte aligned, or a reserved offset (R107, R310) -/
  | busError
  /-- a legal access to one register -/
  | reg (r : Reg)
deriving DecidableEq, Repr

/-- The window decoder (R50, R102, R107, R310). DESIGN CHOICE (notes/assumptions/21.md): whether an access is one to this
block is decided by the address it begins at, so one that begins below REG_BASE and reaches into the window is not. -/
def accessAt (b : Config.Build) (addr width : Nat) : Access :=
  if addr < b.regBase ∨ b.regBase + 0x100 ≤ addr then .elsewhere
  else if width = 64 then
    match regAt (addr - b.regBase) with
    | some r => .reg r
    | none => .busError
  else .busError

/-- The host bus answers an access. -/
def State.answer (s : State) (r : BusResponse) : State := { s with env := { s.env with bus := r } }

/-! ### Reads -/

/-- The record boundary a counter read shows (R389): while BUSY = 1 any boundary of the running command not earlier than
the previous counter read shows, a free choice; else the counters as they stand. -/
def State.shownCounters (s : State) : Counters × State :=
  if s.busy then
    let k := s.choice 0 s.env.marks.length
    (s.env.marks.getD k s.counters, { s with env := { s.env with draws := s.env.draws + 1, marks := s.env.marks.drop k } })
  else (s.counters, s)

/-- A host read of a register: its 64 bits, reserved fields 0, no side effect on any register (R307, R110). -/
def State.readReg (s : State) (r : Reg) : State :=
  match r with
  | .cmd => s.answer (.data 0)
  | .cfg => s.answer (.data (s.regs.logSize.setWidth 64))
  | .count => s.answer (.data s.regs.count)
  | .capacity => s.shownCounters.2.answer (.data s.shownCounters.1.capacity)
  | .srcLen => s.shownCounters.2.answer (.data s.shownCounters.1.srcLen)
  | .status => s.answer (.data s.statusWord)
  | .bytes => s.shownCounters.2.answer (.data s.shownCounters.1.bytes)
  | .values => s.shownCounters.2.answer (.data s.shownCounters.1.values)
  | .irqEn => s.answer (.data s.irqEnWord)

/-! ### Writes -/

/-- A register that is writable while idle only (R308, R311). -/
def State.whenIdle (s : State) (regs : HostRegs) : State := if s.busy then s else { s with regs := regs }

/-- A host write to a register: CMD runs the command of its OP (R300), CFG, COUNT, CAPACITY and SRC_LEN are stored while
idle, STATUS is write-1-to-clear, BYTES and VALUES ignore writes, IRQ_EN is stored at any time (R308, R309, R311). -/
def State.writeReg (s : State) (r : Reg) (w : Word) : StepOutcome :=
  match r with
  | .cmd => exec (decodeCmd w) s
  | .cfg => .next (s.whenIdle { s.regs with logSize := w.extractLsb' 0 6 })
  | .count => .next (s.whenIdle { s.regs with count := w })
  | .capacity => .next (s.whenIdle { s.regs with capacity := w })
  | .srcLen => .next (s.whenIdle { s.regs with srcLen := w })
  | .status => .next { s with regs := s.regs.writeOneToClear w }
  | .bytes => .next s
  | .values => .next s
  | .irqEn => .next { s with regs := { s.regs with doneIe := w.getLsbD 0, errIe := w.getLsbD 1 } }

/-! ### Reset -/

/-- Reset asserted between two steps: every register at its reset value, no instance, sequencer idle; TF and TD are not
cleared and the streams are not touched (R380, R382, R390, R80; notes/assumptions/8.md). -/
def State.resetBlock (s : State) : State :=
  { s with
    pred := { s.pred with ctxF := 0, ctxD := 0, lastD := 0, lsz := 0, configured := false }
    regs := HostRegs.reset
    seq := { act := .idle, n := 0 }
    env := { s.env with marks := [] } }

/-- The streams of a record step cut by reset: VIN and BIN lost a prefix of what the step pops, BOUT and VOUT received a
prefix of what it pushes, each prefix a free choice of its own (R383). `t` is the state the whole step would give. -/
def State.cutPorts (s t : State) : Ports where
  vin := s.ports.vin.drop (s.choice 0 (s.ports.vin.length - t.ports.vin.length + 1))
  bin := s.ports.bin.drop (s.choice 1 (s.ports.bin.length - t.ports.bin.length + 1))
  bout := t.ports.bout.take (s.ports.bout.length + s.choice 2 (t.ports.bout.length - s.ports.bout.length + 1))
  vout := t.ports.vout.take (s.ports.vout.length + s.choice 3 (t.ports.vout.length - s.ports.vout.length + 1))

/-- Reset asserted while a record step is under way (R383): the step's stream effects are partial, every other effect
is undone, and the block is reset. Where no record step is enabled this is reset between steps. -/
def State.resetMidRecord (s : State) : StepOutcome :=
  andThen s.blockStep fun t =>
    .next { s.resetBlock with
      ports := s.cutPorts t
      env := { s.resetBlock.env with draws := s.env.draws + 4 } }

/-! ### The actions -/

/-- The host takes leftover elements off an input port between commands (R119, R343, R390). DESIGN CHOICE
(notes/assumptions/20.md): while a command runs the port loses nothing, since R72 says that a port never drops an
element. -/
def State.discard (s : State) (ports : Ports) : State := if s.busy then s else { s with ports := ports }

/-- One action of the world outside the block. DESIGN CHOICE (notes/assumptions/19.md): a pop or a discard at an empty
port changes nothing, since R72 and R119 do not say what it does. DESIGN CHOICE (notes/assumptions/22.md): reset is one
instantaneous action, since no rule says what the host's accesses and stream transfers do while reset stays asserted. -/
def State.outsideStep (s : State) (act : OutsideAction) : StepOutcome :=
  match act with
  | .busRead addr width =>
    match accessAt s.build addr width with
    | .elsewhere => .next s
    | .busError => .next (s.answer .error)
    | .reg r => .next (s.readReg r)
  | .busWrite addr width w =>
    match accessAt s.build addr width with
    | .elsewhere => .next s
    | .busError => .next (s.answer .error)
    | .reg r => (s.answer .written).writeReg r w
  | .pushVin v => .next { s with ports := { s.ports with vin := s.ports.vin ++ [v] } }
  | .pushBin b => .next { s with ports := { s.ports with bin := s.ports.bin ++ [b] } }
  | .popBout => .next { s with ports := { s.ports with bout := s.ports.bout.drop 1 } }
  | .popVout => .next { s with ports := { s.ports with vout := s.ports.vout.drop 1 } }
  | .discardVin => .next (s.discard { s.ports with vin := s.ports.vin.drop 1 })
  | .discardBin => .next (s.discard { s.ports with bin := s.ports.bin.drop 1 })
  | .reset => .next s.resetBlock
  | .resetMidRecord => s.resetMidRecord

/-! ### Whose turn it is -/

/-- The state with the turns still to come. -/
def State.withTurns (s : State) (turns : List Turn) : State := { s with env := { s.env with turns := turns } }

/-- The agent whose turn it is moves; with no turn listed the block moves (R112, notes/assumptions/1.md). -/
def State.move (s : State) : StepOutcome :=
  match s.env.turns with
  | [] => s.blockStep
  | .block :: ts => (s.withTurns ts).blockStep
  | .outside act :: ts => (s.withTurns ts).outsideStep act

/-! ### Placing an instruction where the next step fetches it -/

/-- The state in which the next step is a host write of `w` to CMD (R300). -/
def State.withCommand (s : State) (w : Word) : State :=
  s.withTurns (.outside (.busWrite s.build.regBase 64 w) :: s.env.turns)

/-- A record that decodes exactly one real value by the half `h`: a padding record with `h` in slot 1, the spec's empty
synthetic slot 2, a payload of zeros and the terminator (R155). -/
def halfProgram (h : BitVec 4) : List Byte :=
  (h ++ 0x7#4 : BitVec 8) :: (List.replicate (nbytes (h.extractLsb' 0 3)) 0x00#8 ++ [0x00#8])

/-- A padding record of two halves without payload, ended by the terminator byte `b`. -/
def termProgram (b : Byte) : List Byte := [0x77#8, b]

/-- The state in which the next step is the record step of a one-value DECODE of `program`: an instance (the one there
is, else a fresh one of log size 1), the bytes on BIN, SRC_LEN their number, N = 1, and the block's turn. -/
def State.withRecord (s : State) (program : List Byte) : State :=
  let len := BitVec.ofNat 64 program.length
  { s with
    pred := if s.pred.configured then s.pred else s.pred.fresh 1#6
    regs := { s.regs with srcLen := len, bytes := 0, values := 0, done := false, err := false, errCode := 0 }
    seq := { act := .decode, n := 1 }
    ports := { s.ports with bin := program }
    env := { s.env with
      turns := .block :: s.env.turns
      marks := [{ bytes := 0, values := 0, capacity := s.regs.capacity, srcLen := len }] } }

end Sys2Proof.Machine
end

