-- ==== Sys2Proof/Machine/Step.lean ====
section
/-! DEFINITION. The step: whoever's turn it is moves, and the interrupt output follows (20_memory.md R112; 10_state.md
R73). -/

namespace Sys2Proof.Machine

/-- One step of the joint run (R112), after which `irq` shows its level (R73). -/
def step (s : State) : Host.Outcome State Fault Refusal := andThen s.move fun t => .next t.settleIrq

/-- `s` with a table word placed where the next step fetches it, in the format the decoder reads it in
(`tableFormat`): a command as the next host write to CMD, a half as slot 1 of a one-value record on BIN, the terminator
as the end of one. A program comes from outside the machine: notes/assumptions/13.md. -/
def State.withFetchWord (s : State) (nbits w : Nat) : State :=
  match tableFormat nbits with
  | .cmd => s.withCommand (BitVec.ofNat 64 (w % 2 ^ nbits))
  | .slot1 => s.withRecord (halfProgram (BitVec.ofNat 4 w))
  | .slot2 => s.withRecord (halfProgram (BitVec.ofNat 4 w))
  | .term => s.withRecord (termProgram (BitVec.ofNat 8 (w % 2 ^ nbits)))

end Sys2Proof.Machine
end

