-- ==== Sys2Proof/Safety.lean ====
section
/-! DEFINITION. What a sound state of FPC-CORE is: the facts the rules keep in every state a step can leave. -/

namespace Sys2Proof.Machine

/-- Every listed slot of a table exists: its index is below the physical depth (R41). -/
def Memory.Within (m : Memory) (depth : Nat) : Prop := ∀ cell ∈ m, cell.1 < depth

/-- The facts about the instance (R41 to R47, R182, R306). -/
structure State.InstanceSound (s : State) : Prop where
  /-- the tables are in canonical form -/
  tfWf : Memory.wf s.pred.tf
  tdWf : Memory.wf s.pred.td
  /-- no slot beyond the physical depth is listed (R41) -/
  tfWithin : Memory.Within s.pred.tf (2 ^ s.build.logSizeMax)
  tdWithin : Memory.Within s.pred.td (2 ^ s.build.logSizeMax)
  /-- without an instance LSZ is 0 (R47, R56) -/
  lszZero : s.pred.configured = false → s.pred.lsz = 0
  /-- under an instance `1 ≤ LSZ ≤ LOG_SIZE_MAX` (R46) -/
  lszRange : s.pred.configured = true → 1 ≤ s.pred.lsz.toNat ∧ s.pred.lsz.toNat ≤ s.build.logSizeMax
  /-- under an instance both contexts are below `2 ^ LSZ` (R182) -/
  contexts : s.pred.configured = true →
    s.pred.ctxF.toNat < 2 ^ s.pred.lsz.toNat ∧ s.pred.ctxD.toNat < 2 ^ s.pred.lsz.toNat
  /-- a running command has an instance (R306) -/
  busyConfigured : s.busy = true → s.pred.configured = true

/-- The facts about STATUS (R56, R61, R73, R330). -/
structure State.StatusSound (s : State) : Prop where
  /-- BUSY = 1 implies DONE = 0 and ERR = 0 -/
  busyClear : s.busy = true → s.regs.done = false ∧ s.regs.err = false
  /-- DONE and ERR are never both 1 -/
  notBoth : ¬(s.regs.done = true ∧ s.regs.err = true)
  /-- ERR = 0 exactly when ERRCODE = 0 -/
  errCodeZero : s.regs.err = false ↔ s.regs.errCode = 0
  /-- the reserved error codes are never produced (R330) -/
  errCodeRange : s.regs.errCode.toNat ≤ 5
  /-- `irq` shows its level (R73) -/
  irqShown : s.irq = s.irqLevel

/-- The facts about the sequencer (R70, R71, R389). -/
structure State.SequencerSound (s : State) : Prop where
  /-- the CONFIG command is one atomic step (R303) -/
  actNotConfig : s.seq.act ≠ .config
  /-- a running command has not passed N -/
  positionInRange : s.busy = true → s.regs.values.toNat ≤ s.seq.n.toNat
  /-- the position is even before each record step (R70) -/
  positionEven : s.busy = true → s.regs.values.toNat < s.seq.n.toNat → s.regs.values.toNat % 2 = 0
  /-- the newest boundary of a running command is where its counters stand (R389) -/
  marksCurrent : s.busy = true → s.env.marks.getLast? = some s.counters

/-- The invariant of the machine: what every step keeps and reset has. -/
structure State.Sound (s : State) : Prop where
  instanceSound : s.InstanceSound
  statusSound : s.StatusSound
  sequencerSound : s.SequencerSound

end Sys2Proof.Machine
end

