-- ==== Sys2Proof/Certificates/Slice0/Obligations.lean ====
section
/-! DEFINITION. The statements for the provers. Rule numbers are those of spec/. -/

namespace Sys2Proof.Stated

open Sys2Proof.Machine

/-- The sixteen HALF rows of the opcode table: the instruction, the engine it names (R145) and its payload length
(R152, R162), written out from the table. -/
def halfRows : List (Instr × Engine × Nat) :=
  [(.halfF0, .fcm, 8), (.halfF1, .fcm, 7), (.halfF2, .fcm, 6), (.halfF3, .fcm, 5),
   (.halfF5, .fcm, 3), (.halfF6, .fcm, 2), (.halfF7, .fcm, 1), (.halfF8, .fcm, 0),
   (.halfD0, .dfcm, 8), (.halfD1, .dfcm, 7), (.halfD2, .dfcm, 6), (.halfD3, .dfcm, 5),
   (.halfD5, .dfcm, 3), (.halfD6, .dfcm, 2), (.halfD7, .dfcm, 1), (.halfD8, .dfcm, 0)]

/-- The number of records of `n` values: `ceil(n / 2)` (R241, R271). -/
def recordCount (n : Nat) : Nat := (n + 1) / 2

/-- The number a header byte is for two selectors and codes: `(S1 << 7) | (C1 << 4) | (S2 << 3) | C2` (R144). -/
def headerNumber (s1 : Engine) (c1 : BitVec 3) (s2 : Engine) (c2 : BitVec 3) : Nat :=
  let bit : Engine → Nat := fun e => if e = .dfcm then 1 else 0
  128 * bit s1 + 16 * c1.toNat + 8 * bit s2 + c2.toNat

/-- The registers after a command's prologue (R302). -/
def afterPrologue (r : HostRegs) (op : BitVec 4) : HostRegs :=
  { r with done := false, err := false, errCode := 0, lastOp := op }

/-- Two states that differ at most in table slots that no instance reaches: without an instance any slot, under one the
slots at and above `2 ^ LSZ`. -/
structure SameReachable (s s' : State) : Prop where
  rest : s' = { s with pred := { s.pred with tf := s'.pred.tf, td := s'.pred.td } }
  slots : s.pred.configured = true → ∀ j < 2 ^ s.pred.lsz.toNat,
    Memory.read s.pred.tf j = Memory.read s'.pred.tf j ∧ Memory.read s.pred.td j = Memory.read s'.pred.td j

end Sys2Proof.Stated

open Sys2Proof Sys2Proof.Machine Sys2Proof.Stated

/-! ### Encodings -/

/-- Decode and encode agree, for every well-formed instruction and whatever bytes follow. -/
def Obligations.DecodeReadsBackEveryEncoding : Prop :=
  ∀ (i : Instr) (rest : List Byte), i.wellFormed = true → decodeBytes i.format (encode i ++ rest) = .ok (i, rest)

/-- A header byte packs two halves and nothing else: every pair of halves is read back from its header, and every byte
is the header of the halves read from it (R144, R159). -/
def Obligations.HeaderHoldsExactlyTwoHalves : Prop :=
  (∀ i1 i2 : Instr, i1.format = .slot2 → i2.format = .slot2 →
    decodeBytes .slot1 [encodeHeader i1 i2] = .ok (i1, []) ∧ decodeBytes .slot2 [encodeHeader i1 i2] = .ok (i2, []))
  ∧ ∀ h : Byte, encodeHeader (decodeSlot1 h) (decodeSlot2 h) = h

/-- R141: OP, the low four bits, selects the command, whatever the other sixty bits are. -/
def Obligations.CommandIsSelectedByOpAlone : Prop :=
  ∀ (reserved : BitVec 60) (op : BitVec 4),
    decodeCmd (reserved ++ op) = decodeCmd (0#60 ++ op)
    ∧ (op = 0 → decodeCmd (reserved ++ op) = .nop)
    ∧ (op = 1 → decodeCmd (reserved ++ op) = .config)
    ∧ (op = 2 → decodeCmd (reserved ++ op) = .encode)
    ∧ (op = 3 → decodeCmd (reserved ++ op) = .decode)
    ∧ (4 ≤ op.toNat ∧ op.toNat ≤ 7 → decodeCmd (reserved ++ op) = .reserved47 op)
    ∧ (8 ≤ op.toNat → decodeCmd (reserved ++ op) = .reserved8F op)

/-- Words written out from the encodings decode to the instructions they stand for: CMD 0x12 is ENCODE (R300), CMD 0x9
a reserved opcode (R305), header 0x8F is `D0, D8` and header 0x27 is `F2` in slot 1 (R162). -/
def Obligations.SampleWordsDecode : Prop :=
  decodeBytes .cmd [0x12, 0, 0, 0, 0, 0, 0, 0] = .ok (.encode, [])
  ∧ decodeBytes .cmd [0x09, 0, 0, 0, 0, 0, 0, 0xFF] = .ok (.reserved8F 9, [])
  ∧ decodeBytes .slot1 [0x8F] = .ok (.halfD0, []) ∧ decodeBytes .slot2 [0x8F] = .ok (.halfD8, [])
  ∧ decodeBytes .slot1 [0x27] = .ok (.halfF2, []) ∧ decodeBytes .term [0xAB] = .ok (.term, [])

/-! ### The step and the instructions it runs -/

/-- Whose turn it is moves, the block if no turn is listed, and then `irq` is re-evaluated. The list of turns is the
model's form of R112's interleaving (notes/assumptions/1.md). -/
def Obligations.StepTakesTheNextTurn : Prop :=
  ∀ s : State,
    (s.env.turns = [] → step s = andThen s.blockStep fun t => .next t.settleIrq)
    ∧ (∀ ts, s.env.turns = .block :: ts → step s = andThen (s.withTurns ts).blockStep fun t => .next t.settleIrq)
    ∧ (∀ act ts, s.env.turns = .outside act :: ts →
        step s = andThen ((s.withTurns ts).outsideStep act) fun t => .next t.settleIrq)

/-- A step in which the host writes eight bytes to CMD that decode to `i` is `i`, after the turn is taken off the list
and the bus has answered, and then `irq` is re-evaluated. That the host's write step itself runs the whole command (all of
CONFIG, the start of ENCODE or DECODE), where R112 lists the CONFIG step and the start of a command among the block's
steps, is the model's choice (notes/assumptions/16.md); so are the list of turns (notes/assumptions/1.md) and the held bus
answer (notes/assumptions/12.md). -/
def Obligations.StepRunsTheCommandWritten : Prop :=
  ∀ (s : State) (ts : List Turn) (bs : List Byte) (i : Instr),
    decodeBytes .cmd bs = .ok (i, []) →
    s.env.turns = .outside (.busWrite s.build.regBase 64 (wordOfBytes bs)) :: ts →
    step s = andThen (exec i ((s.withTurns ts).answer .written)) fun t => .next t.settleIrq

/-- A record step of DECODE runs the two halves its header byte decodes to and, in a padding record, the terminator:
one atomic step, after the header byte is popped, with a record boundary after it. -/
def Obligations.StepRunsTheHalvesFetched : Prop :=
  ∀ (s : State) (h : Byte) (body : List Byte) (i1 i2 : Instr),
    s.seq.act = .decode → s.regs.values.toNat < s.seq.n.toNat → s.env.turns = [] → s.ports.bin = h :: body →
    decodeBytes .slot1 [h] = .ok (i1, []) → decodeBytes .slot2 [h] = .ok (i2, []) →
    bodyLength h s.atPadding ≤ body.length → bodyLength h s.atPadding + 1 ≤ s.regs.srcLen.toNat →
    step s = andThen (exec i1 (s.takeBin 1)) fun t1 => andThen (exec i2 t1) fun t2 =>
      andThen (if s.atPadding then exec .term t2 else .next t2) fun t3 => .next t3.mark.settleIrq

/-- Every step of every state ends in a next state: no error, wait or bus error stops the machine. That a waiting block
(R391, U21: the step is not enabled) still answers a next state, the state as it is, is the model's form of the wait
(notes/assumptions/2.md). -/
def Obligations.StepAlwaysGivesANextState : Prop :=
  ∀ s : State, ∃ t : State, step s = .next t

/-! ### Codes, payloads and selection -/

/-- The header code table, its inverse and the payload lengths are those of R150, R151 and R152, and the payload length
is `8 - z` for every count but 4, where it is 5 (R218). -/
def Obligations.CodeTablesAreTheSpecs : Prop :=
  (List.range 9).map codeOf = [0, 1, 2, 3, 3, 4, 5, 6, 7]
  ∧ [(0 : BitVec 3), 1, 2, 3, 4, 5, 6, 7].map inv = [0, 1, 2, 3, 5, 6, 7, 8]
  ∧ [(0 : BitVec 3), 1, 2, 3, 4, 5, 6, 7].map nbytes = [8, 7, 6, 5, 3, 2, 1, 0]
  ∧ (∀ c, nbytes c = 8 - inv c)
  ∧ (∀ z ≤ 8, (z ≠ 4 → inv (codeOf z) = z) ∧ (z = 4 → inv (codeOf z) = 3))
  ∧ ∀ z ≤ 8, (z ≠ 4 → nbytes (codeOf z) = 8 - z) ∧ (z = 4 → nbytes (codeOf z) = 5)

/-- R213: `lzb` is 8 for 0, else the largest `k ≤ 7` whose top `k` bytes are zero, which is the number of leading zero
bits divided by 8. A larger residual never has more leading zero bytes (R214, but for the rule's own example, which
disagrees with R213, notes/assumptions/15.md). -/
def Obligations.LzbIsTheLeadingZeroByteCount : Prop :=
  (∀ r : Word,
    (r = 0 → lzb r = 8)
    ∧ (r ≠ 0 → lzb r ≤ 7 ∧ r.toNat < 2 ^ (64 - 8 * lzb r) ∧ ∀ k ≤ 7, r.toNat < 2 ^ (64 - 8 * k) → k ≤ lzb r)
    ∧ lzb r = r.clz.toNat / 8)
  ∧ ∀ r1 r2 : Word, r1.toNat ≤ r2.toNat → lzb r2 ≤ lzb r1

/-- DFCM is selected exactly when its residual has strictly more leading zero bytes, so every tie is FCM, an exact FCM
prediction is FCM, and an exact DFCM prediction with an inexact FCM one is DFCM. (R215; the rule's last example
disagrees with the rule, notes/assumptions/15.md.) -/
def Obligations.SelectorIsDfcmOnlyOnMoreZeroBytes : Prop :=
  ∀ rF rD : Word,
    (selectEngine rF rD = .dfcm ↔ lzb rF < lzb rD)
    ∧ (rF = 0 → selectEngine rF rD = .fcm)
    ∧ (rD = 0 → rF ≠ 0 → selectEngine rF rD = .dfcm)

/-- R219, R220: byte `j` of a serialised residual is bits `8j+7..8j`, for each of its `n` bytes; byte `j` of a
deserialised list is its `j`-th byte, and zero beyond the list. -/
def Obligations.PayloadBytesAreLittleEndian : Prop :=
  (∀ (r : Word) (n : Nat), n ≤ 8 →
    (ser r n).length = n ∧ ∀ j < n, (ser r n)[j]? = some (r.extractLsb' (8 * j) 8))
  ∧ ∀ (bs : List Byte), bs.length ≤ 8 → ∀ j < 8, (des bs).extractLsb' (8 * j) 8 = bs.getD j 0

/-- R221: the code of a residual never claims more zero bytes than it has, and its payload gives it back. -/
def Obligations.PayloadCarriesTheWholeResidual : Prop :=
  ∀ r : Word,
    inv (codeOf (lzb r)) ≤ lzb r
    ∧ (∀ j, 8 - inv (codeOf (lzb r)) ≤ j → j ≤ 7 → r.extractLsb' (8 * j) 8 = 0)
    ∧ des (ser r (nbytes (codeOf (lzb r)))) = r

/-! ### The predictor engines -/

/-- The predictions are pure reads: `TF[CTX_F]`, and `LAST_D` plus `TD[CTX_D]` modulo 2^64 (R180, R185). -/
def Obligations.PredictionsReadTheSelectedSlots : Prop :=
  ∀ p : Predictor,
    p.predF = Memory.read p.tf p.ctxF.toNat
    ∧ p.predD.toNat = (p.lastD.toNat + (Memory.read p.td p.ctxD.toNat).toNat) % 2 ^ 64

/-- R181: the FCM update writes the value into the slot its prediction came from and mixes it into the context, from the
old context; every other slot and the DFCM engine keep their values. -/
def Obligations.FcmUpdateWritesSlotAndContext : Prop :=
  ∀ (H : Config.Hashes) (p : Predictor) (a : Word), Memory.wf p.tf →
    Memory.read (p.updF H a).tf p.ctxF.toNat = a
    ∧ (∀ j ≠ p.ctxF.toNat, Memory.read (p.updF H a).tf j = Memory.read p.tf j)
    ∧ (p.updF H a).ctxF = H.f p.lsz p.ctxF a
    ∧ (∀ logSizeMax, H.InRange logSizeMax → 1 ≤ p.lsz.toNat → p.lsz.toNat ≤ logSizeMax →
        p.ctxF.toNat < 2 ^ p.lsz.toNat → (p.updF H a).ctxF.toNat < 2 ^ p.lsz.toNat)
    ∧ (H.f p.lsz p.ctxF a = p.ctxF → (p.updF H a).predF = a)
    ∧ (p.updF H a).td = p.td ∧ (p.updF H a).ctxD = p.ctxD ∧ (p.updF H a).lastD = p.lastD
    ∧ (p.updF H a).lsz = p.lsz ∧ (p.updF H a).configured = p.configured

/-- R186: the DFCM update writes the wrapping difference into the slot its prediction came from, mixes it into the
context, from the old context, and keeps the value in LAST_D; every other slot and the FCM engine keep their values. -/
def Obligations.DfcmUpdateWritesDeltaContextAndLast : Prop :=
  ∀ (H : Config.Hashes) (p : Predictor) (a : Word), Memory.wf p.td →
    Memory.read (p.updD H a).td p.ctxD.toNat = a - p.lastD
    ∧ (∀ j ≠ p.ctxD.toNat, Memory.read (p.updD H a).td j = Memory.read p.td j)
    ∧ (p.updD H a).ctxD = H.d p.lsz p.ctxD (a - p.lastD)
    ∧ (p.updD H a).lastD = a
    ∧ (a - p.lastD).toNat = (if p.lastD.toNat ≤ a.toNat then a.toNat - p.lastD.toNat
        else 2 ^ 64 - (p.lastD.toNat - a.toNat))
    ∧ (p.updD H a).tf = p.tf ∧ (p.updD H a).ctxF = p.ctxF
    ∧ (p.updD H a).lsz = p.lsz ∧ (p.updD H a).configured = p.configured

/-- R184, R189: the mixing functions of a machine built with the defaults, as numbers. -/
def Obligations.DefaultHashesAreTheSpecs : Prop :=
  ∀ (s : State) (lsz : BitVec 6) (ctx : BitVec 32) (w : Word), s.build.mixing = .standard →
    1 ≤ lsz.toNat → lsz.toNat ≤ 32 →
    (s.hashes.f lsz ctx w).toNat = ((ctx.toNat * 2 ^ 6) ^^^ (w.toNat / 2 ^ 48)) % 2 ^ lsz.toNat
    ∧ (s.hashes.d lsz ctx w).toNat = ((ctx.toNat * 2 ^ 2) ^^^ (w.toNat / 2 ^ 40)) % 2 ^ lsz.toNat

/-- R187: after `updD(a)` the DFCM prediction is `a` plus the slot at the new context; where the context did not move,
it is `a` plus the difference just seen. -/
def Obligations.DfcmPredictionAfterUpdate : Prop :=
  ∀ (H : Config.Hashes) (p : Predictor) (a : Word), Memory.wf p.td →
    (p.updD H a).predD = a + Memory.read (p.updD H a).td (p.updD H a).ctxD.toNat
    ∧ ((p.updD H a).ctxD = p.ctxD → (p.updD H a).predD = a + (a - p.lastD))

/-- R191: `observe` is both updates; they touch disjoint state, so their order does not matter; encoding and decoding a
value each run it once, on the actual value. -/
def Obligations.ObserveIsBothUpdatesInEitherOrder : Prop :=
  ∀ (H : Config.Hashes) (p : Predictor) (a : Word),
    p.observe H a = (p.updF H a).updD H a ∧ p.observe H a = (p.updD H a).updF H a
    ∧ (p.updF H a).td = p.td ∧ (p.updF H a).ctxD = p.ctxD ∧ (p.updF H a).lastD = p.lastD
    ∧ (p.updD H a).tf = p.tf ∧ (p.updD H a).ctxF = p.ctxF
    ∧ (encHalf H p a).2 = p.observe H a
    ∧ ∀ (e : Engine) (payload : List Byte), (decHalf H p e payload).2 = p.observe H (decHalf H p e payload).1

/-- R222: the half of a value is chosen and serialised under the predictions as they stand before either engine observes
the value, and then both observe it. -/
def Obligations.EncHalfUsesPredictionsBeforeUpdate : Prop :=
  ∀ (H : Config.Hashes) (p : Predictor) (a : Word),
    (encHalf H p a).1.engine = (if lzb (p.predF ^^^ a) < lzb (p.predD ^^^ a) then .dfcm else .fcm)
    ∧ (encHalf H p a).1.code = codeOf (max (lzb (p.predF ^^^ a)) (lzb (p.predD ^^^ a)))
    ∧ (encHalf H p a).1.payload =
        ser (p.predict (encHalf H p a).1.engine ^^^ a) (nbytes (encHalf H p a).1.code)
    ∧ (encHalf H p a).2 = p.observe H a

/-- R224: with equal predictor states, decoding what was encoded gives the value back and leaves the states equal, for
every pair of mixing functions and whichever engine's residual was sent. -/
def Obligations.HalfRoundTrip : Prop :=
  ∀ (H : Config.Hashes) (p : Predictor) (a : Word),
    decHalf H p (encHalf H p a).1.engine (encHalf H p a).1.payload = (a, (encHalf H p a).2)
    ∧ ∀ e : Engine, decHalf H p e (ser (p.predict e ^^^ a) (nbytes (codeOf (lzb (p.predict e ^^^ a))))) =
        (a, (encHalf H p a).2)

/-! ### Commands -/

/-- R301: NOP changes nothing, in every state. -/
def Obligations.NopChangesNothing : Prop :=
  ∀ s : State, exec .nop s = .next s

/-- A command write while BUSY = 1 is ignored, whatever the command (R300, R311). -/
def Obligations.CommandsAreIgnoredWhileBusy : Prop :=
  ∀ (i : Instr) (s : State), i.format = .cmd → s.busy = true → exec i s = .next s

/-- R303: CONFIG with a legal log size makes a fresh instance and completes; slots at and above `2 ^ lsz`, the counters,
the operands and the streams are unchanged. -/
def Obligations.ConfigMakesAFreshInstance : Prop :=
  ∀ s : State, s.busy = false → 1 ≤ s.regs.logSize.toNat → s.regs.logSize.toNat ≤ s.build.logSizeMax →
    ∃ t : State, exec .config s = .next t
      ∧ (∀ j < 2 ^ s.regs.logSize.toNat, Memory.read t.pred.tf j = 0 ∧ Memory.read t.pred.td j = 0)
      ∧ (∀ j ≥ 2 ^ s.regs.logSize.toNat,
          Memory.read t.pred.tf j = Memory.read s.pred.tf j ∧ Memory.read t.pred.td j = Memory.read s.pred.td j)
      ∧ t.pred.ctxF = 0 ∧ t.pred.ctxD = 0 ∧ t.pred.lastD = 0
      ∧ t.pred.lsz = s.regs.logSize ∧ t.pred.configured = true
      ∧ t.regs = { s.regs with done := true, err := false, errCode := 0, lastOp := 1 }
      ∧ t.seq = s.seq ∧ t.ports = s.ports ∧ t.irq = s.irq ∧ t.build = s.build
      ∧ t.env = { s.env with marks := [] }

/-- R304, R331: CONFIG with log size 0 or above LOG_SIZE_MAX raises ConfigurationError: the earlier instance ends, and
tables, contexts, LAST_D, counters and streams are unchanged. -/
def Obligations.ConfigRejectsAnIllegalLogSize : Prop :=
  ∀ s : State, s.busy = false → s.regs.logSize.toNat = 0 ∨ s.build.logSizeMax < s.regs.logSize.toNat →
    exec .config s = .next { s with
      pred := { s.pred with configured := false, lsz := 0 }
      regs := { s.regs with done := false, err := true, errCode := 1, lastOp := 1 }
      env := { s.env with marks := [] } }

/-- R305, R334: an accepted reserved opcode raises IllegalCommand, with the OP in LAST_OP, and changes nothing else. -/
def Obligations.ReservedOpcodesRaiseIllegalCommand : Prop :=
  ∀ (op : BitVec 4) (s : State), s.busy = false →
    (4 ≤ op.toNat ∧ op.toNat ≤ 7 → exec (.reserved47 op) s = .next { s with
      regs := { s.regs with done := false, err := true, errCode := 4, lastOp := op }
      env := { s.env with marks := [] } })
    ∧ (8 ≤ op.toNat → exec (.reserved8F op) s = .next { s with
      regs := { s.regs with done := false, err := true, errCode := 4, lastOp := op }
      env := { s.env with marks := [] } })

/-- R306, R335: ENCODE and DECODE without an instance raise NotConfigured and change nothing else. -/
def Obligations.EncodeAndDecodeNeedAnInstance : Prop :=
  ∀ s : State, s.busy = false → s.pred.configured = false →
    exec .encode s = .next { s with
      regs := { s.regs with done := false, err := true, errCode := 5, lastOp := 2 }
      env := { s.env with marks := [] } }
    ∧ exec .decode s = .next { s with
      regs := { s.regs with done := false, err := true, errCode := 5, lastOp := 3 }
      env := { s.env with marks := [] } }

/-- ENCODE under an instance starts: BUSY, COUNT latched into N, BYTES and VALUES 0, and nothing else but the prologue's
flags; the tables, the streams and the operands are unchanged (R240, R302). -/
def Obligations.EncodeStartsUnderAnInstance : Prop :=
  ∀ s : State, s.busy = false → s.pred.configured = true →
    exec .encode s = .next { s with
      regs := { afterPrologue s.regs 2 with bytes := 0, values := 0 }
      seq := { act := .encode, n := s.regs.count }
      env := { s.env with
        marks := [{ bytes := 0, values := 0, capacity := s.regs.capacity, srcLen := s.regs.srcLen }] } }

/-- DECODE under an instance starts in the same way (R270, R302). -/
def Obligations.DecodeStartsUnderAnInstance : Prop :=
  ∀ s : State, s.busy = false → s.pred.configured = true →
    exec .decode s = .next { s with
      regs := { afterPrologue s.regs 3 with bytes := 0, values := 0 }
      seq := { act := .decode, n := s.regs.count }
      env := { s.env with
        marks := [{ bytes := 0, values := 0, capacity := s.regs.capacity, srcLen := s.regs.srcLen }] } }

/-- R340: the error entry. BUSY falls, ERR and ERRCODE are set, DONE stays, and exactly the codes 1, 2 and 3 end the
instance; tables, contexts, counters and streams are unchanged. -/
def Obligations.RaiseIsTheErrorEntry : Prop :=
  ∀ (s : State) (e : BlockError),
    (s.raise e).busy = false ∧ (s.raise e).seq.n = s.seq.n
    ∧ (s.raise e).regs = { s.regs with err := true, errCode := errorCode e }
    ∧ ((errorCode e).toNat ∈ [1, 2, 3] → (s.raise e).pred = { s.pred with configured := false, lsz := 0 })
    ∧ ((errorCode e).toNat ∉ [1, 2, 3] → (s.raise e).pred = s.pred)
    ∧ (s.raise e).ports = s.ports ∧ (s.raise e).irq = s.irq ∧ (s.raise e).build = s.build

/-! ### The record steps of ENCODE -/

/-- R242: the full record step. Slot 2 sees the predictor state slot 1 left; the header, payload 1 and payload 2 go to
BOUT, and the counters move by the record's length and by two values. -/
def Obligations.EncodeWritesAFullRecord : Prop :=
  ∀ (s : State) (a1 a2 : Word) (rest : List Word),
    let h1 := (encHalf s.hashes s.pred a1).1
    let p1 := (encHalf s.hashes s.pred a1).2
    let h2 := (encHalf s.hashes p1 a2).1
    let p2 := (encHalf s.hashes p1 a2).2
    let record : List Byte :=
      BitVec.ofNat 8 (headerNumber h1.engine h1.code h2.engine h2.code) :: (h1.payload ++ h2.payload)
    let regs := { s.regs with
      capacity := s.regs.capacity - BitVec.ofNat 64 record.length
      bytes := s.regs.bytes + BitVec.ofNat 64 record.length
      values := s.regs.values + 2 }
    s.seq.act = .encode → s.regs.values.toNat + 2 ≤ s.seq.n.toNat → s.ports.vin = a1 :: a2 :: rest →
    record.length ≤ s.regs.capacity.toNat →
    s.blockStep = .next { s with
      pred := p2
      ports := { s.ports with vin := rest, bout := s.ports.bout ++ record }
      regs := regs
      env := { s.env with marks := s.env.marks ++
        [{ bytes := regs.bytes, values := regs.values, capacity := regs.capacity, srcLen := regs.srcLen }] } }

/-- R243: the padding record step. One value is popped and observed; the synthetic slot is S2 = 0, C2 = 7, and the
terminator 0x00 follows payload 1. -/
def Obligations.EncodeWritesAPaddingRecord : Prop :=
  ∀ (s : State) (a1 : Word) (rest : List Word),
    let h1 := (encHalf s.hashes s.pred a1).1
    let record : List Byte := BitVec.ofNat 8 (headerNumber h1.engine h1.code .fcm 7) :: (h1.payload ++ [0x00])
    let regs := { s.regs with
      capacity := s.regs.capacity - BitVec.ofNat 64 record.length
      bytes := s.regs.bytes + BitVec.ofNat 64 record.length
      values := s.regs.values + 1 }
    s.seq.act = .encode → s.regs.values.toNat + 1 = s.seq.n.toNat → s.ports.vin = a1 :: rest →
    record.length ≤ s.regs.capacity.toNat →
    s.blockStep = .next { s with
      pred := s.pred.observe s.hashes a1
      ports := { s.ports with vin := rest, bout := s.ports.bout ++ record }
      regs := regs
      env := { s.env with marks := s.env.marks ++
        [{ bytes := regs.bytes, values := regs.values, capacity := regs.capacity, srcLen := regs.srcLen }] } }

/-- R244: a record longer than CAPACITY raises CapacityExhausted: nothing is pushed, BYTES, VALUES and CAPACITY stay, the
record's values are popped and observed, and the instance ends. -/
def Obligations.EncodeRaisesCapacityExhausted : Prop :=
  ∀ (s : State) (a1 : Word) (rest : List Word), s.seq.act = .encode → s.ports.vin = a1 :: rest →
    let h1 := (encHalf s.hashes s.pred a1).1
    let p1 := (encHalf s.hashes s.pred a1).2
    (∀ a2 rest2, rest = a2 :: rest2 → s.regs.values.toNat + 2 ≤ s.seq.n.toNat →
      s.regs.capacity.toNat < 1 + h1.payload.length + (encHalf s.hashes p1 a2).1.payload.length →
      s.blockStep = .next { s with
        pred := { p1.observe s.hashes a2 with configured := false, lsz := 0 }
        ports := { s.ports with vin := rest2 }
        regs := { s.regs with err := true, errCode := 2 }
        seq := { s.seq with act := .idle }
        env := { s.env with marks := [] } })
    ∧ (s.regs.values.toNat + 1 = s.seq.n.toNat → s.regs.capacity.toNat < 2 + h1.payload.length →
      s.blockStep = .next { s with
        pred := { p1 with configured := false, lsz := 0 }
        ports := { s.ports with vin := rest }
        regs := { s.regs with err := true, errCode := 2 }
        seq := { s.seq with act := .idle }
        env := { s.env with marks := [] } })

/-- A record step of ENCODE waits, changing nothing, while VIN lacks a value it pops: two for a full record, one for a
padding record (R241, R391). That a step which is not enabled is a step that leaves the state as it is, is the model's form
of the wait (notes/assumptions/2.md). -/
def Obligations.EncodeWaitsForItsValues : Prop :=
  ∀ s : State, s.seq.act = .encode → s.regs.values.toNat < s.seq.n.toNat →
    s.ports.vin.length < min 2 (s.seq.n.toNat - s.regs.values.toNat) → s.blockStep = .next s

/-- A command whose position has reached N ends at the block's next step: BUSY falls, DONE is set, and nothing else
changes, in particular for COUNT = 0 (R246, R251, R278). That the end is a step of its own, also after an empty command,
of which R251 says that it ends at once, is the model's choice, read from R112 and D2 (notes/assumptions/17.md). -/
def Obligations.CommandCompletesAtN : Prop :=
  ∀ s : State, s.seq.act = .encode ∨ s.seq.act = .decode → s.regs.values = s.seq.n →
    s.blockStep = .next { s with
      seq := { s.seq with act := .idle }
      regs := { s.regs with done := true }
      env := { s.env with marks := [] } }

/-! ### The record steps of DECODE -/

/-- With SRC_LEN = 0 the header fetch raises UnderflowError and nothing is popped (R272, R333). -/
def Obligations.DecodeUnderflowsAtTheHeader : Prop :=
  ∀ s : State, s.seq.act = .decode → s.regs.values.toNat < s.seq.n.toNat → s.regs.srcLen = 0 →
    s.blockStep = .next { s with
      pred := { s.pred with configured := false, lsz := 0 }
      regs := { s.regs with err := true, errCode := 3 }
      seq := { s.seq with act := .idle }
      env := { s.env with marks := [] } }

/-- R273: a body longer than what SRC_LEN leaves after the header raises UnderflowError: the header stays popped and
counted, no body byte is popped, VALUES stays and nothing goes to VOUT. -/
def Obligations.DecodeUnderflowsAtTheBody : Prop :=
  ∀ (s : State) (h : Byte) (body : List Byte), s.seq.act = .decode → s.regs.values.toNat < s.seq.n.toNat →
    s.ports.bin = h :: body → 1 ≤ s.regs.srcLen.toNat →
    s.regs.srcLen.toNat - 1 < nbytes (h.extractLsb' 4 3) + nbytes (h.extractLsb' 0 3)
      + (if s.regs.values.toNat + 1 = s.seq.n.toNat then 1 else 0) →
    s.blockStep = .next { s with
      pred := { s.pred with configured := false, lsz := 0 }
      regs := { s.regs with err := true, errCode := 3, srcLen := s.regs.srcLen - 1, bytes := s.regs.bytes + 1 }
      ports := { s.ports with bin := body }
      seq := { s.seq with act := .idle }
      env := { s.env with marks := [] } }

/-- A full record of DECODE: the header, payload 1 and payload 2 are popped, both values decoded in order, slot 2 under
the predictor state slot 1 left, and pushed to VOUT in order (R272, R274, R275, R277). -/
def Obligations.DecodeReadsAFullRecord : Prop :=
  ∀ (s : State) (e1 e2 : Engine) (c1 c2 : BitVec 3) (P1 P2 rest : List Byte),
    let len := 1 + nbytes c1 + nbytes c2
    let d1 := decHalf s.hashes s.pred e1 P1
    let d2 := decHalf s.hashes d1.2 e2 P2
    let regs := { s.regs with
      srcLen := s.regs.srcLen - BitVec.ofNat 64 len
      bytes := s.regs.bytes + BitVec.ofNat 64 len
      values := s.regs.values + 2 }
    s.seq.act = .decode → s.regs.values.toNat + 2 ≤ s.seq.n.toNat →
    s.ports.bin = BitVec.ofNat 8 (headerNumber e1 c1 e2 c2) :: (P1 ++ P2 ++ rest) →
    P1.length = nbytes c1 → P2.length = nbytes c2 → len ≤ s.regs.srcLen.toNat →
    s.blockStep = .next { s with
      pred := d2.2
      ports := { s.ports with bin := rest, vout := s.ports.vout ++ [d1.1, d2.1] }
      regs := regs
      env := { s.env with marks := s.env.marks ++
        [{ bytes := regs.bytes, values := regs.values, capacity := regs.capacity, srcLen := regs.srcLen }] } }

/-- A padding record of DECODE: slot 1 is decoded; the bytes of the synthetic slot 2, however many its code says, and the
terminator, whatever its value, are popped and discarded; one value goes to VOUT and neither engine observes anything
for slot 2, whatever its selector (R276, R277, R279). -/
def Obligations.DecodeReadsAPaddingRecord : Prop :=
  ∀ (s : State) (e1 e2 : Engine) (c1 c2 : BitVec 3) (P1 P2 rest : List Byte) (terminator : Byte),
    let len := 2 + nbytes c1 + nbytes c2
    let d1 := decHalf s.hashes s.pred e1 P1
    let regs := { s.regs with
      srcLen := s.regs.srcLen - BitVec.ofNat 64 len
      bytes := s.regs.bytes + BitVec.ofNat 64 len
      values := s.regs.values + 1 }
    s.seq.act = .decode → s.regs.values.toNat + 1 = s.seq.n.toNat →
    s.ports.bin = BitVec.ofNat 8 (headerNumber e1 c1 e2 c2) :: (P1 ++ P2 ++ terminator :: rest) →
    P1.length = nbytes c1 → P2.length = nbytes c2 → len ≤ s.regs.srcLen.toNat →
    s.blockStep = .next { s with
      pred := d1.2
      ports := { s.ports with bin := rest, vout := s.ports.vout ++ [d1.1] }
      regs := regs
      env := { s.env with marks := s.env.marks ++
        [{ bytes := regs.bytes, values := regs.values, capacity := regs.capacity, srcLen := regs.srcLen }] } }

/-- A record step of DECODE waits, changing nothing, while BIN lacks a byte it pops: the header, or, where SRC_LEN covers
the record, any byte of the body (R271, R391). That a wait is a step that changes nothing is the model's form of it
(notes/assumptions/2.md). -/
def Obligations.DecodeWaitsForItsBytes : Prop :=
  ∀ s : State, s.seq.act = .decode → s.regs.values.toNat < s.seq.n.toNat → 1 ≤ s.regs.srcLen.toNat →
    (s.ports.bin = [] → s.blockStep = .next s)
    ∧ ∀ h body, s.ports.bin = h :: body →
      nbytes (h.extractLsb' 4 3) + nbytes (h.extractLsb' 0 3)
        + (if s.regs.values.toNat + 1 = s.seq.n.toNat then 1 else 0) + 1 ≤ s.regs.srcLen.toNat →
      body.length < nbytes (h.extractLsb' 4 3) + nbytes (h.extractLsb' 0 3)
        + (if s.regs.values.toNat + 1 = s.seq.n.toNat then 1 else 0) →
      s.blockStep = .next s

/-! ### The halves and the terminator as instructions -/

/-- R223: each of the sixteen halves, in a real slot with its payload on BIN, gives the value `des(P)` XOR the selected
engine's current prediction, pushes it to VOUT, and both engines observe it. That a slot is real exactly while VALUES is below N,
with VALUES counted after each half where R277 moves it at the end of the record, is the model's choice
(notes/assumptions/14.md); no state between two steps shows it. -/
def Obligations.HalfDecodesOneValue : Prop :=
  ∀ row ∈ halfRows, ∀ (s : State) (payload rest : List Byte),
    s.seq.act = .decode → s.regs.values.toNat < s.seq.n.toNat → s.ports.bin = payload ++ rest →
    payload.length = row.2.2 → payload.length ≤ s.regs.srcLen.toNat →
    let a := des payload ^^^ (if row.2.1 = .dfcm then s.pred.predD else s.pred.predF)
    exec row.1 s = .next { s with
      pred := s.pred.observe s.hashes a
      ports := { s.ports with bin := rest, vout := s.ports.vout ++ [a] }
      regs := { s.regs with
        srcLen := s.regs.srcLen - BitVec.ofNat 64 row.2.2
        bytes := s.regs.bytes + BitVec.ofNat 64 row.2.2
        values := s.regs.values + 1 } }

/-- The synthetic slot of a padding record: each of the sixteen halves pops its payload and discards it; no value, no
observation, no count (R276). That the synthetic slot is known by VALUES = N, where R277 has VALUES still at N - 1, is the
model's choice (notes/assumptions/14.md); no state between two steps shows it. -/
def Obligations.HalfInTheSyntheticSlotIsSkipped : Prop :=
  ∀ row ∈ halfRows, ∀ (s : State) (payload rest : List Byte),
    s.seq.act = .decode → s.regs.values = s.seq.n → s.ports.bin = payload ++ rest →
    payload.length = row.2.2 → payload.length ≤ s.regs.srcLen.toNat →
    exec row.1 s = .next { s with
      ports := { s.ports with bin := rest }
      regs := { s.regs with
        srcLen := s.regs.srcLen - BitVec.ofNat 64 row.2.2
        bytes := s.regs.bytes + BitVec.ofNat 64 row.2.2 } }

/-- TERM pops one byte, whatever its value, and changes nothing else (R276, R279). -/
def Obligations.TermDiscardsOneByte : Prop :=
  ∀ (s : State) (b : Byte) (rest : List Byte),
    s.seq.act = .decode → s.ports.bin = b :: rest → 1 ≤ s.regs.srcLen.toNat →
    exec .term s = .next { s with
      ports := { s.ports with bin := rest }
      regs := { s.regs with srcLen := s.regs.srcLen - 1, bytes := s.regs.bytes + 1 } }

/-- What the sixteen halves and TERM leave unchanged in every state: every slot of TF but the one CTX_F selects and every
slot of TD but the one CTX_D selects; CFG, COUNT and CAPACITY (SRC_LEN, the fourth operand register, counts down), DONE, LAST_OP, IRQ_EN and N; VIN and BOUT; `irq`. TERM
changes no predictor table or context at all. What a half or TERM does in a state in which no record step runs it is the
model's choice (notes/assumptions/14.md); this frame holds there too. -/
def Obligations.HalfAndTermFrame : Prop :=
  ∀ (i : Instr) (s t : State), (∃ row ∈ halfRows, row.1 = i) ∨ i = .term → exec i s = .next t →
    (∀ j ≠ s.pred.ctxF.toNat, Memory.read t.pred.tf j = Memory.read s.pred.tf j)
    ∧ (∀ j ≠ s.pred.ctxD.toNat, Memory.read t.pred.td j = Memory.read s.pred.td j)
    ∧ (i = .term → t.pred.tf = s.pred.tf ∧ t.pred.td = s.pred.td ∧ t.pred.ctxF = s.pred.ctxF
        ∧ t.pred.ctxD = s.pred.ctxD ∧ t.pred.lastD = s.pred.lastD)
    ∧ t.regs.logSize = s.regs.logSize ∧ t.regs.count = s.regs.count ∧ t.regs.capacity = s.regs.capacity
    ∧ t.regs.done = s.regs.done ∧ t.regs.lastOp = s.regs.lastOp
    ∧ t.regs.doneIe = s.regs.doneIe ∧ t.regs.errIe = s.regs.errIe
    ∧ t.seq.n = s.seq.n ∧ t.ports.vin = s.ports.vin ∧ t.ports.bout = s.ports.bout
    ∧ t.irq = s.irq ∧ t.build = s.build ∧ t.env.turns = s.env.turns

/-! ### The register window and the interrupt -/

/-- R56: the bits of STATUS, every reserved bit 0. -/
def Obligations.StatusBitsAreTheSpecs : Prop :=
  ∀ s : State,
    s.statusWord.getLsbD 0 = (s.seq.act != .idle) ∧ s.statusWord.getLsbD 1 = s.regs.done
    ∧ s.statusWord.getLsbD 2 = s.regs.err ∧ s.statusWord.getLsbD 3 = s.pred.configured
    ∧ s.statusWord.extractLsb' 4 4 = s.regs.errCode ∧ s.statusWord.extractLsb' 8 6 = s.pred.lsz
    ∧ s.statusWord.extractLsb' 14 2 = 0 ∧ s.statusWord.extractLsb' 16 4 = s.regs.lastOp
    ∧ s.statusWord.extractLsb' 20 44 = 0

/-- A 64-bit read of CMD, CFG, COUNT, STATUS or IRQ_EN, idle or busy, and of a progress counter while idle, answers the
register's value, reserved fields 0, and changes nothing but the bus's answer (R307, R110). -/
def Obligations.ReadsAnswerTheRegister : Prop :=
  ∀ s : State,
    (∀ row ∈ [(0x00, (0 : Word)), (0x08, s.regs.logSize.setWidth 64), (0x10, s.regs.count), (0x28, s.statusWord),
      (0x40, BitVec.ofNat 64 (2 * s.regs.errIe.toNat + s.regs.doneIe.toNat))],
      s.outsideStep (.busRead (s.build.regBase + row.1) 64) = .next (s.answer (.data row.2)))
    ∧ (s.busy = false →
      ∀ row ∈ [(0x18, s.regs.capacity), (0x20, s.regs.srcLen), (0x30, s.regs.bytes), (0x38, s.regs.values)],
        s.outsideStep (.busRead (s.build.regBase + row.1) 64) = .next (s.answer (.data row.2)))

/-- R308: what a 64-bit write of `w` does to each register but CMD and STATUS, idle or busy. -/
def Obligations.WritesStoreTheWritableFields : Prop :=
  ∀ (s : State) (w : Word),
    let at' (offset : Nat) := s.outsideStep (.busWrite (s.build.regBase + offset) 64 w)
    let kept (r : HostRegs) : StepOutcome := .next { s.answer .written with regs := r }
    (s.busy = false → at' 0x08 = kept { s.regs with logSize := w.extractLsb' 0 6 })
    ∧ (s.busy = false → at' 0x10 = kept { s.regs with count := w })
    ∧ (s.busy = false → at' 0x18 = kept { s.regs with capacity := w })
    ∧ (s.busy = false → at' 0x20 = kept { s.regs with srcLen := w })
    ∧ (s.busy = true → at' 0x08 = kept s.regs ∧ at' 0x10 = kept s.regs ∧ at' 0x18 = kept s.regs ∧ at' 0x20 = kept s.regs)
    ∧ at' 0x30 = kept s.regs ∧ at' 0x38 = kept s.regs
    ∧ at' 0x40 = kept { s.regs with doneIe := w.getLsbD 0, errIe := w.getLsbD 1 }

/-- R309: a write to STATUS clears DONE where bit 1 is set, ERR and ERRCODE where bit 2 is set, and nothing else, idle or
busy. -/
def Obligations.StatusIsWriteOneToClear : Prop :=
  ∀ (s : State) (w : Word),
    s.outsideStep (.busWrite (s.build.regBase + 0x28) 64 w) = .next { s.answer .written with
      regs := { s.regs with
        done := if w.getLsbD 1 then false else s.regs.done
        err := if w.getLsbD 2 then false else s.regs.err
        errCode := if w.getLsbD 2 then 0 else s.regs.errCode } }

/-- R310: an access that is not 64 bits wide, not 8-byte aligned or at a reserved offset gets a bus error, and nothing
else changes. The second clause is the model's choice: an access that begins outside the 0x100 bytes at REG_BASE is none to
this block, and leaves the state as it is (notes/assumptions/12.md; 21.md for one that reaches into the window). -/
def Obligations.BadAccessesGetABusError : Prop :=
  ∀ (s : State) (width : Nat) (w : Word),
    (∀ offset < 0x100, width ≠ 64 ∨ offset % 8 ≠ 0 ∨ 0x48 ≤ offset →
      s.outsideStep (.busRead (s.build.regBase + offset) width) = .next (s.answer .error)
      ∧ s.outsideStep (.busWrite (s.build.regBase + offset) width w) = .next (s.answer .error))
    ∧ ∀ addr, addr < s.build.regBase ∨ s.build.regBase + 0x100 ≤ addr →
      s.outsideStep (.busRead addr width) = .next s ∧ s.outsideStep (.busWrite addr width w) = .next s

/-- R311: while BUSY = 1, writes to CMD, CFG, COUNT, CAPACITY and SRC_LEN are ignored without a bus error. -/
def Obligations.BusyWritesAreDropped : Prop :=
  ∀ (s : State) (w : Word), s.busy = true →
    ∀ offset ∈ [0x00, 0x08, 0x10, 0x18, 0x20],
      s.outsideStep (.busWrite (s.build.regBase + offset) 64 w) = .next (s.answer .written)

/-- A read of BYTES, VALUES, CAPACITY or SRC_LEN during a command answers the counter at some record boundary that is
still open, and from then on no earlier boundary is open; no register changes. Which boundary is a free choice: the
statement holds for every value of it (R389; notes/assumptions/10.md, 11.md). -/
def Obligations.CounterReadsDuringACommandShowABoundary : Prop :=
  ∀ (s : State), s.busy = true → s.env.marks ≠ [] →
    ∀ row ∈ [(0x18, Counters.capacity), (0x20, Counters.srcLen), (0x30, Counters.bytes), (0x38, Counters.values)],
      ∃ (earlier later : List Counters) (shown : Counters) (t : State),
        s.env.marks = earlier ++ shown :: later
        ∧ s.outsideStep (.busRead (s.build.regBase + row.1) 64) = .next t
        ∧ t = { s with env := { s.env with
            bus := .data (row.2 shown), marks := shown :: later, draws := s.env.draws + 1 } }

/-- R73: after every step `irq` is `(DONE & DONE_IE) | (ERR & ERR_IE)`, and it is 0 at reset. -/
def Obligations.IrqShowsItsLevelAfterEveryStep : Prop :=
  (∀ s t : State, step s = .next t →
    t.irq = ((t.regs.done && t.regs.doneIe) || (t.regs.err && t.regs.errIe)))
  ∧ State.reset.irq = false

/-- The stream ports are first-in first-out: a push adds at the tail, a pop takes the head, and nothing else changes
(R72). Between commands the host can discard what is left on VIN and BIN, a duty R119 and R390 give it: the way it does so,
one element at a time and the oldest first, and that a discard does nothing while a command runs, are the model's choice
(notes/assumptions/20.md). That a pop or discard at an empty port changes nothing is the model's choice too
(notes/assumptions/19.md). -/
def Obligations.StreamsAreFirstInFirstOut : Prop :=
  ∀ (s : State) (v : Word) (b : Byte),
    s.outsideStep (.pushVin v) = .next { s with ports := { s.ports with vin := s.ports.vin ++ [v] } }
    ∧ s.outsideStep (.pushBin b) = .next { s with ports := { s.ports with bin := s.ports.bin ++ [b] } }
    ∧ (∀ rest, s.ports.bout = b :: rest →
        s.outsideStep .popBout = .next { s with ports := { s.ports with bout := rest } })
    ∧ (∀ rest, s.ports.vout = v :: rest →
        s.outsideStep .popVout = .next { s with ports := { s.ports with vout := rest } })
    ∧ (s.busy = false → ∀ rest, s.ports.vin = v :: rest →
        s.outsideStep .discardVin = .next { s with ports := { s.ports with vin := rest } })
    ∧ (s.busy = false → ∀ rest, s.ports.bin = b :: rest →
        s.outsideStep .discardBin = .next { s with ports := { s.ports with bin := rest } })
    ∧ (s.busy = true → s.outsideStep .discardVin = .next s ∧ s.outsideStep .discardBin = .next s)
    ∧ (s.ports.bout = [] → s.outsideStep .popBout = .next s) ∧ (s.ports.vout = [] → s.outsideStep .popVout = .next s)
    ∧ (s.ports.vin = [] → s.outsideStep .discardVin = .next s) ∧ (s.ports.bin = [] → s.outsideStep .discardBin = .next s)

/-! ### Reset -/

/-- The values R80 gives for reset. The tables and the streams are not among them (notes/assumptions/8.md, 9.md). -/
def Obligations.ResetValuesAreTheSpecs : Prop :=
  let s := State.reset
  s.pred.ctxF = 0 ∧ s.pred.ctxD = 0 ∧ s.pred.lastD = 0 ∧ s.pred.lsz = 0 ∧ s.pred.configured = false
  ∧ s.regs.logSize = 0 ∧ s.regs.count = 0 ∧ s.regs.capacity = 0 ∧ s.regs.srcLen = 0
  ∧ s.statusWord = 0 ∧ s.regs.bytes = 0 ∧ s.regs.values = 0 ∧ s.irqEnWord = 0
  ∧ s.seq.act = .idle ∧ s.seq.n = 0 ∧ s.irq = false

/-- R380: reset in any state ends the command and the instance and gives every register its reset value. The streams and
the tables keep what they hold: that they keep exactly it is the model's choice (notes/assumptions/8.md, 9.md). After reset
the block pops and pushes nothing until a command runs: a step of an idle block leaves the state as it is, which is the
model's form of waiting for a command (notes/assumptions/2.md). That reset is one action, with no state in which it is
held, is the model's choice (notes/assumptions/22.md). -/
def Obligations.ResetEndsEverything : Prop :=
  (∀ (s : State) (ts : List Turn), s.env.turns = .outside .reset :: ts →
    ∃ t : State, step s = .next t
      ∧ t.regs = State.reset.regs ∧ t.seq = State.reset.seq ∧ t.irq = false
      ∧ t.pred = { State.reset.pred with tf := s.pred.tf, td := s.pred.td }
      ∧ t.ports = s.ports ∧ t.build = s.build ∧ t.env.turns = ts)
  ∧ ∀ s : State, s.seq.act = .idle → s.blockStep = .next s

/-- R383: reset during a record step. With `t` the state the block's step would have given, VIN and BIN have lost a
prefix of what it pops, BOUT and VOUT have received a prefix of what it pushes, each a free choice of its own
(notes/assumptions/10.md), and everything else is as after a reset between steps: registers, sequencer, instance and `irq`
at their reset values, the synthesis parameters, the bus's last answer and the turns to come kept. The statement holds for
every value of the free choices. That the tables keep exactly their contents is the model's choice
(notes/assumptions/8.md); so are the cut of the block's own next step and the independence of the four prefixes
(notes/assumptions/18.md), and that reset is one action with no state in which it is held (notes/assumptions/22.md). -/
def Obligations.ResetMidRecordCutsTheStreams : Prop :=
  ∀ (s t : State) (ts : List Turn), s.env.turns = .outside .resetMidRecord :: ts →
    (s.withTurns ts).blockStep = .next t →
    ∃ (u : State) (k1 k2 k3 k4 : Nat), step s = .next u
      ∧ u.regs = State.reset.regs ∧ u.seq = State.reset.seq ∧ u.irq = false
      ∧ u.pred = { State.reset.pred with tf := s.pred.tf, td := s.pred.td }
      ∧ u.build = s.build ∧ u.env.turns = ts ∧ u.env.bus = s.env.bus ∧ u.env.marks = []
      ∧ k1 ≤ s.ports.vin.length - t.ports.vin.length ∧ u.ports.vin = s.ports.vin.drop k1
      ∧ k2 ≤ s.ports.bin.length - t.ports.bin.length ∧ u.ports.bin = s.ports.bin.drop k2
      ∧ u.ports.bout = s.ports.bout ++ (t.ports.bout.drop s.ports.bout.length).take k3
      ∧ u.ports.vout = s.ports.vout ++ (t.ports.vout.drop s.ports.vout.length).take k4

/-! ### Whole-machine properties -/

/-- Every step keeps the invariant, whichever mixing functions the machine was built with: the canonical form and depth of the tables, the range of LSZ and of both contexts,
the relations among the STATUS bits, the level of `irq`, the parity and range of the position, and that the newest record
boundary is where the counters stand. -/
def Obligations.StepKeepsTheMachineSound : Prop :=
  ∀ s t : State, s.Sound → step s = .next t → t.Sound

/-- The state after reset has the invariant. -/
def Obligations.ResetIsSound : Prop := State.reset.Sound

/-- No step of a sound machine shows what a slot holds that no instance reaches: two sound states that differ only there
take the same step, and differ only there afterwards. So neither the tables' contents after reset (R382) nor slots at and
above `2 ^ LSZ` (R41) are ever observable. -/
def Obligations.UnreachableSlotsAreNeverObservable : Prop :=
  ∀ s s' : State, s.Sound → s'.Sound → SameReachable s s' →
    ∃ t t' : State, step s = .next t ∧ step s' = .next t' ∧ SameReachable t t'

/-- A DECODE of what an ENCODE wrote gives the values back, bit for bit. Let ENCODE of `xs`, run by the block alone, end
with DONE. Then the bytes `B` it pushed are such that DECODE of the same count, from the same predictor state, by a machine
with the same mixing functions, with at least `B` in SRC_LEN and BIN beginning with `B`, ends with DONE, has pushed exactly
`xs`, has popped exactly `B`, and leaves the encoder's predictor state (R281). The one step after the last record is the
end of the command, a step of its own by the model's choice (notes/assumptions/17.md). -/
def Obligations.CommandRoundTrip : Prop :=
  ∀ (xs tail : List Word) (e e' : State),
    e.seq.act = .encode → e.seq.n.toNat = xs.length → e.regs.values = 0 → e.regs.done = false →
    e.ports.vin = xs ++ tail → e.env.turns = [] →
    Host.Core.run Sys2Proof.core (recordCount xs.length + 1) e = .next e' → e'.regs.done = true →
    ∃ B : List Byte, e'.ports.bout = e.ports.bout ++ B ∧ e'.ports.vin = tail
      ∧ ∀ (d : State) (rest : List Byte),
        d.seq.act = .decode → d.seq.n = e.seq.n → d.regs.values = 0 → d.regs.bytes = 0 → d.pred = e.pred →
        d.build.mixing = e.build.mixing → d.env.turns = [] → d.ports.bin = B ++ rest → B.length ≤ d.regs.srcLen.toNat →
        ∃ d' : State, Host.Core.run Sys2Proof.core (recordCount xs.length + 1) d = .next d'
          ∧ d'.ports.vout = d.ports.vout ++ xs ∧ d'.ports.bin = rest
          ∧ d'.busy = false ∧ d'.regs.done = true ∧ d'.pred = e'.pred
          ∧ d'.regs.values = d.seq.n ∧ d'.regs.bytes.toNat = B.length
          ∧ d'.regs.srcLen.toNat + B.length = d.regs.srcLen.toNat
end

