-- ==== Sys2Proof/Laws/Memory.lean ====
section
/-! SUPPORT. What the table operations do, and that each keeps the canonical form. -/

namespace Sys2Proof.Machine

@[simp] theorem Memory.read_nil (i : Nat) : Memory.read [] i = blankSlot := rfl

/-- A write leaves every other slot alone, in any list. -/
theorem Memory.read_write_other (m : Memory) {i j : Nat} (v : Word) (h : j ≠ i) :
    Memory.read (Memory.write m i v) j = Memory.read m j := by
  induction m with
  | nil => by_cases hv : v = blankSlot <;> simp [Memory.write, Memory.read, hv, h]
  | cons c m ih =>
    obtain ⟨k, w⟩ := c
    simp only [Memory.write]
    split
    · split <;> simp [Memory.read, h]
    · split
      · rename_i hik
        subst hik
        split <;> simp [Memory.read, h]
      · simp only [Memory.read, ih]

/-- An index below every listed one reads as blank. -/
theorem Memory.read_of_all_above {m : Memory} {i : Nat} (h : ∀ c ∈ m, i < c.1) : Memory.read m i = blankSlot := by
  induction m with
  | nil => rfl
  | cons c m ih =>
    have hc : i < c.1 := h c (by simp)
    simp [Memory.read, Nat.ne_of_lt hc, ih fun d hd => h d (by simp [hd])]

theorem Memory.wf_tail {c : Nat × Word} {m : Memory} (h : Memory.wf (c :: m)) : Memory.wf m :=
  ⟨h.1.tail, fun d hd => h.2 d (by simp [hd])⟩

/-- The canonical form makes a write readable, whatever the value. -/
theorem Memory.read_write_same {m : Memory} (hm : Memory.wf m) (i : Nat) (v : Word) :
    Memory.read (Memory.write m i v) i = v := by
  induction m with
  | nil => by_cases hv : v = blankSlot <;> simp [Memory.write, Memory.read, hv]
  | cons c m ih =>
    obtain ⟨k, w⟩ := c
    have hrise : ∀ d ∈ m, k < d.1 := fun d hd => (List.pairwise_cons.mp hm.1).1 d hd
    simp only [Memory.write]
    split
    · rename_i hik
      split
      · rename_i hv
        rw [hv]
        exact Memory.read_of_all_above fun d hd => by
          rcases List.mem_cons.mp hd with rfl | hd
          · exact hik
          · exact Nat.lt_trans hik (hrise d hd)
      · simp [Memory.read]
    · split
      · rename_i hik
        subst hik
        split
        · rename_i hv
          rw [hv]
          exact Memory.read_of_all_above hrise
        · simp [Memory.read]
      · rename_i hik
        simpa [Memory.read, hik] using ih (Memory.wf_tail hm)

/-- Every index a write lists was listed or is the one written. -/
theorem Memory.mem_write_index {m : Memory} {i : Nat} {v : Word} {d : Nat × Word} (h : d ∈ Memory.write m i v) :
    d.1 = i ∨ ∃ w, (d.1, w) ∈ m := by
  induction m with
  | nil =>
    by_cases hv : v = blankSlot <;> simp [Memory.write, hv] at h
    exact .inl (by rw [h])
  | cons c m ih =>
    obtain ⟨k, w⟩ := c
    simp only [Memory.write] at h
    split at h
    · split at h
      · exact .inr ⟨d.2, h⟩
      · rcases List.mem_cons.mp h with rfl | h
        · exact .inl rfl
        · exact .inr ⟨d.2, h⟩
    · split at h
      · split at h
        · exact .inr ⟨d.2, List.mem_cons_of_mem _ h⟩
        · rcases List.mem_cons.mp h with rfl | h
          · exact .inl rfl
          · exact .inr ⟨d.2, List.mem_cons_of_mem _ h⟩
      · rcases List.mem_cons.mp h with rfl | h
        · exact .inr ⟨w, by simp⟩
        · rcases ih h with h | ⟨u, hu⟩
          · exact .inl h
          · exact .inr ⟨u, List.mem_cons_of_mem _ hu⟩

/-- A write keeps the canonical form. -/
theorem Memory.write_wf {m : Memory} (hm : Memory.wf m) (i : Nat) (v : Word) : Memory.wf (Memory.write m i v) := by
  induction m with
  | nil => by_cases hv : v = blankSlot <;> simp [Memory.write, Memory.wf, hv]
  | cons c m ih =>
    obtain ⟨k, w⟩ := c
    have hrise : ∀ d ∈ m, k < d.1 := fun d hd => (List.pairwise_cons.mp hm.1).1 d hd
    simp only [Memory.write]
    split
    · rename_i hik
      split
      · exact hm
      · rename_i hv
        refine ⟨List.pairwise_cons.mpr ⟨fun d hd => ?_, hm.1⟩, fun d hd => ?_⟩
        · rcases List.mem_cons.mp hd with rfl | hd
          · exact hik
          · exact Nat.lt_trans hik (hrise d hd)
        · rcases List.mem_cons.mp hd with rfl | hd
          · exact hv
          · exact hm.2 d hd
    · rename_i hik
      split
      · rename_i heq
        subst heq
        split
        · exact Memory.wf_tail hm
        · rename_i hv
          refine ⟨List.pairwise_cons.mpr ⟨hrise, hm.1.tail⟩, fun d hd => ?_⟩
          rcases List.mem_cons.mp hd with rfl | hd
          · exact hv
          · exact hm.2 d (by simp [hd])
      · rename_i hne
        have ih' := ih (Memory.wf_tail hm)
        refine ⟨List.pairwise_cons.mpr ⟨fun d hd => ?_, ih'.1⟩, fun d hd => ?_⟩
        · rcases Memory.mem_write_index hd with h | ⟨u, hu⟩
          · omega
          · exact hrise (d.1, u) hu
        · rcases List.mem_cons.mp hd with rfl | hd
          · exact hm.2 _ (by simp)
          · exact ih'.2 d hd

/-- What a cleared table reads as. -/
theorem Memory.read_clearBelow (m : Memory) (bound i : Nat) :
    Memory.read (Memory.clearBelow m bound) i = if i < bound then blankSlot else Memory.read m i := by
  induction m with
  | nil => simp [Memory.clearBelow]
  | cons c m ih =>
    obtain ⟨k, w⟩ := c
    by_cases hk : bound ≤ k
    · have h : Memory.clearBelow ((k, w) :: m) bound = (k, w) :: Memory.clearBelow m bound := by
        simp [Memory.clearBelow, hk]
      rw [h]
      by_cases hi : i = k
      · subst hi
        simp [Memory.read, Nat.not_lt.mpr hk]
      · simp [Memory.read, hi, ih]
    · have h : Memory.clearBelow ((k, w) :: m) bound = Memory.clearBelow m bound := by
        simp [Memory.clearBelow, hk]
      rw [h, ih]
      split
      · rfl
      · have hi : i ≠ k := by omega
        simp [Memory.read, hi]

/-- Clearing keeps the canonical form. -/
theorem Memory.clearBelow_wf {m : Memory} (hm : Memory.wf m) (bound : Nat) : Memory.wf (Memory.clearBelow m bound) :=
  ⟨hm.1.filter _, fun d hd => hm.2 d (List.mem_of_mem_filter hd)⟩

/-- Clearing lists nothing new. -/
theorem Memory.mem_of_mem_clearBelow {m : Memory} {bound : Nat} {d : Nat × Word}
    (h : d ∈ Memory.clearBelow m bound) : d ∈ m := List.mem_of_mem_filter h

/-- The canonical form is canonical: tables that read alike are equal data. -/
theorem Memory.eq_of_read_eq {m m' : Memory} (hm : Memory.wf m) (hm' : Memory.wf m')
    (h : ∀ i, Memory.read m i = Memory.read m' i) : m = m' := by
  induction m generalizing m' with
  | nil =>
    cases m' with
    | nil => rfl
    | cons c m' =>
      have := h c.1
      simp [Memory.read] at this
      exact absurd this.symm (hm'.2 c (by simp))
  | cons c m ih =>
    have hc : c.2 ≠ blankSlot := hm.2 c (by simp)
    have hrise := (List.pairwise_cons.mp hm.1).1
    cases m' with
    | nil =>
      have := h c.1
      simp [Memory.read] at this
      exact absurd this hc
    | cons c' m' =>
      have hc' : c'.2 ≠ blankSlot := hm'.2 c' (by simp)
      have hrise' := (List.pairwise_cons.mp hm'.1).1
      obtain ⟨k, w⟩ := c
      obtain ⟨k', w'⟩ := c'
      have hkk : k = k' := by
        rcases Nat.lt_trichotomy k k' with hlt | heq | hgt
        · have h1 := h k
          rw [Memory.read_of_all_above (m := (k', w') :: m') fun d hd => by
            rcases List.mem_cons.mp hd with rfl | hd
            · exact hlt
            · exact Nat.lt_trans hlt (hrise' d hd)] at h1
          simp [Memory.read] at h1
          exact absurd h1 hc
        · exact heq
        · have h1 := h k'
          rw [Memory.read_of_all_above (m := (k, w) :: m) fun d hd => by
            rcases List.mem_cons.mp hd with rfl | hd
            · exact hgt
            · exact Nat.lt_trans hgt (hrise d hd)] at h1
          simp [Memory.read] at h1
          exact absurd h1.symm hc'
      subst hkk
      have hw : w = w' := by simpa [Memory.read] using h k
      subst hw
      congr 1
      refine ih (Memory.wf_tail hm) (Memory.wf_tail hm') fun i => ?_
      by_cases hi : i = k
      · subst hi
        rw [Memory.read_of_all_above hrise, Memory.read_of_all_above hrise']
      · simpa [Memory.read, hi] using h i

end Sys2Proof.Machine
end

