-- ==== Sys2Proof/Laws/Operands.lean ====
section
/-! SUPPORT. The small facts of the operand forms: leading zero bytes, codes, payload bytes. -/

namespace Sys2Proof.Machine

@[simp] theorem lzb_zero : lzb 0#64 = 8 := rfl

theorem lzb_of_ne_zero {r : Word} (h : r ≠ 0#64) : lzb r = lzbUpTo r 7 := if_neg h

/-- `lzbUpTo r n` is the largest count up to `n` whose bound holds. -/
theorem lzbUpTo_spec (r : Word) (n : Nat) :
    lzbUpTo r n ≤ n ∧ r.toNat < 2 ^ (64 - 8 * lzbUpTo r n) ∧
      ∀ k ≤ n, r.toNat < 2 ^ (64 - 8 * k) → k ≤ lzbUpTo r n := by
  induction n with
  | zero => exact ⟨le_refl _, r.isLt, fun k hk _ => hk⟩
  | succ n ih =>
    simp only [lzbUpTo]
    split
    · rename_i h
      exact ⟨le_refl _, h, fun k hk _ => hk⟩
    · rename_i h
      refine ⟨by omega, ih.2.1, fun k hk hr => ?_⟩
      rcases Nat.lt_or_ge k (n + 1) with h' | h'
      · exact ih.2.2 k (by omega) hr
      · obtain rfl : k = n + 1 := by omega
        exact absurd hr h

theorem lzb_le (r : Word) : lzb r ≤ 8 := by
  by_cases h : r = 0#64
  · simp [h]
  · have := (lzbUpTo_spec r 7).1
    rw [lzb_of_ne_zero h]
    omega

theorem inv_le (c : BitVec 3) : inv c ≤ 8 := by revert c; decide

theorem nbytes_le (c : BitVec 3) : nbytes c ≤ 8 := by revert c; decide

@[simp] theorem ser_length (r : Word) (n : Nat) : (ser r n).length = n := by
  induction n generalizing r with
  | zero => rfl
  | succ n ih => simp [ser, ih]

@[simp] theorem ser_zero (r : Word) : ser r 0 = [] := rfl

@[simp] theorem des_nil : des [] = 0 := rfl

theorem des_cons (b : Byte) (bs : List Byte) : des (b :: bs) = b.setWidth 64 ||| (des bs <<< 8) := rfl

end Sys2Proof.Machine
end

