-- ==== Sys2Proof/Laws/State.lean ====
section
/-! SUPPORT. One lemma per field per named update of State and of its registers, true by rfl. -/

namespace Sys2Proof.Machine

/-! ### `prologue` -/

@[simp] theorem State.prologue_pred (s : State) (op : BitVec 4) :
    (s.prologue op).pred = s.pred := rfl
@[simp] theorem State.prologue_regs (s : State) (op : BitVec 4) :
    (s.prologue op).regs = s.regs.clearFlags op := rfl
@[simp] theorem State.prologue_seq (s : State) (op : BitVec 4) :
    (s.prologue op).seq = s.seq := rfl
@[simp] theorem State.prologue_ports (s : State) (op : BitVec 4) :
    (s.prologue op).ports = s.ports := rfl
@[simp] theorem State.prologue_irq (s : State) (op : BitVec 4) :
    (s.prologue op).irq = s.irq := rfl
@[simp] theorem State.prologue_build (s : State) (op : BitVec 4) :
    (s.prologue op).build = s.build := rfl
@[simp] theorem State.prologue_env (s : State) (op : BitVec 4) :
    (s.prologue op).env = s.env := rfl

/-! ### `raise` -/

@[simp] theorem State.raise_pred (s : State) (e : BlockError) :
    (s.raise e).pred = if endsInstance e then { s.pred with configured := false, lsz := 0 } else s.pred := rfl
@[simp] theorem State.raise_regs (s : State) (e : BlockError) :
    (s.raise e).regs = s.regs.setError e := rfl
@[simp] theorem State.raise_seq (s : State) (e : BlockError) :
    (s.raise e).seq = { s.seq with act := .idle } := rfl
@[simp] theorem State.raise_ports (s : State) (e : BlockError) :
    (s.raise e).ports = s.ports := rfl
@[simp] theorem State.raise_irq (s : State) (e : BlockError) :
    (s.raise e).irq = s.irq := rfl
@[simp] theorem State.raise_build (s : State) (e : BlockError) :
    (s.raise e).build = s.build := rfl
@[simp] theorem State.raise_env (s : State) (e : BlockError) :
    (s.raise e).env = { s.env with marks := [] } := rfl

/-! ### `complete` -/

@[simp] theorem State.complete_pred (s : State) :
    (s.complete).pred = s.pred := rfl
@[simp] theorem State.complete_regs (s : State) :
    (s.complete).regs = { s.regs with done := true } := rfl
@[simp] theorem State.complete_seq (s : State) :
    (s.complete).seq = { s.seq with act := .idle } := rfl
@[simp] theorem State.complete_ports (s : State) :
    (s.complete).ports = s.ports := rfl
@[simp] theorem State.complete_irq (s : State) :
    (s.complete).irq = s.irq := rfl
@[simp] theorem State.complete_build (s : State) :
    (s.complete).build = s.build := rfl
@[simp] theorem State.complete_env (s : State) :
    (s.complete).env = { s.env with marks := [] } := rfl

/-! ### `start` -/

@[simp] theorem State.start_pred (s : State) (act : Act) :
    (s.start act).pred = s.pred := rfl
@[simp] theorem State.start_regs (s : State) (act : Act) :
    (s.start act).regs = { s.regs with bytes := 0, values := 0 } := rfl
@[simp] theorem State.start_seq (s : State) (act : Act) :
    (s.start act).seq = { act := act, n := s.regs.count } := rfl
@[simp] theorem State.start_ports (s : State) (act : Act) :
    (s.start act).ports = s.ports := rfl
@[simp] theorem State.start_irq (s : State) (act : Act) :
    (s.start act).irq = s.irq := rfl
@[simp] theorem State.start_build (s : State) (act : Act) :
    (s.start act).build = s.build := rfl
@[simp] theorem State.start_env (s : State) (act : Act) :
    (s.start act).env = { s.env with marks := [{ bytes := 0, values := 0, capacity := s.regs.capacity, srcLen := s.regs.srcLen }] } := rfl

/-! ### `takeBin` -/

@[simp] theorem State.takeBin_pred (s : State) (k : Nat) :
    (s.takeBin k).pred = s.pred := rfl
@[simp] theorem State.takeBin_regs (s : State) (k : Nat) :
    (s.takeBin k).regs = { s.regs with srcLen := s.regs.srcLen - BitVec.ofNat 64 k, bytes := s.regs.bytes + BitVec.ofNat 64 k } := rfl
@[simp] theorem State.takeBin_seq (s : State) (k : Nat) :
    (s.takeBin k).seq = s.seq := rfl
@[simp] theorem State.takeBin_ports (s : State) (k : Nat) :
    (s.takeBin k).ports = { s.ports with bin := s.ports.bin.drop k } := rfl
@[simp] theorem State.takeBin_irq (s : State) (k : Nat) :
    (s.takeBin k).irq = s.irq := rfl
@[simp] theorem State.takeBin_build (s : State) (k : Nat) :
    (s.takeBin k).build = s.build := rfl
@[simp] theorem State.takeBin_env (s : State) (k : Nat) :
    (s.takeBin k).env = s.env := rfl

/-! ### `mark` -/

@[simp] theorem State.mark_pred (s : State) :
    (s.mark).pred = s.pred := rfl
@[simp] theorem State.mark_regs (s : State) :
    (s.mark).regs = s.regs := rfl
@[simp] theorem State.mark_seq (s : State) :
    (s.mark).seq = s.seq := rfl
@[simp] theorem State.mark_ports (s : State) :
    (s.mark).ports = s.ports := rfl
@[simp] theorem State.mark_irq (s : State) :
    (s.mark).irq = s.irq := rfl
@[simp] theorem State.mark_build (s : State) :
    (s.mark).build = s.build := rfl
@[simp] theorem State.mark_env (s : State) :
    (s.mark).env = { s.env with marks := s.env.marks ++ [s.counters] } := rfl

/-! ### `answer` -/

@[simp] theorem State.answer_pred (s : State) (r : BusResponse) :
    (s.answer r).pred = s.pred := rfl
@[simp] theorem State.answer_regs (s : State) (r : BusResponse) :
    (s.answer r).regs = s.regs := rfl
@[simp] theorem State.answer_seq (s : State) (r : BusResponse) :
    (s.answer r).seq = s.seq := rfl
@[simp] theorem State.answer_ports (s : State) (r : BusResponse) :
    (s.answer r).ports = s.ports := rfl
@[simp] theorem State.answer_irq (s : State) (r : BusResponse) :
    (s.answer r).irq = s.irq := rfl
@[simp] theorem State.answer_build (s : State) (r : BusResponse) :
    (s.answer r).build = s.build := rfl
@[simp] theorem State.answer_env (s : State) (r : BusResponse) :
    (s.answer r).env = { s.env with bus := r } := rfl

/-! ### `withTurns` -/

@[simp] theorem State.withTurns_pred (s : State) (ts : List Turn) :
    (s.withTurns ts).pred = s.pred := rfl
@[simp] theorem State.withTurns_regs (s : State) (ts : List Turn) :
    (s.withTurns ts).regs = s.regs := rfl
@[simp] theorem State.withTurns_seq (s : State) (ts : List Turn) :
    (s.withTurns ts).seq = s.seq := rfl
@[simp] theorem State.withTurns_ports (s : State) (ts : List Turn) :
    (s.withTurns ts).ports = s.ports := rfl
@[simp] theorem State.withTurns_irq (s : State) (ts : List Turn) :
    (s.withTurns ts).irq = s.irq := rfl
@[simp] theorem State.withTurns_build (s : State) (ts : List Turn) :
    (s.withTurns ts).build = s.build := rfl
@[simp] theorem State.withTurns_env (s : State) (ts : List Turn) :
    (s.withTurns ts).env = { s.env with turns := ts } := rfl

/-! ### `settleIrq` -/

@[simp] theorem State.settleIrq_pred (s : State) :
    (s.settleIrq).pred = s.pred := rfl
@[simp] theorem State.settleIrq_regs (s : State) :
    (s.settleIrq).regs = s.regs := rfl
@[simp] theorem State.settleIrq_seq (s : State) :
    (s.settleIrq).seq = s.seq := rfl
@[simp] theorem State.settleIrq_ports (s : State) :
    (s.settleIrq).ports = s.ports := rfl
@[simp] theorem State.settleIrq_irq (s : State) :
    (s.settleIrq).irq = s.irqLevel := rfl
@[simp] theorem State.settleIrq_build (s : State) :
    (s.settleIrq).build = s.build := rfl
@[simp] theorem State.settleIrq_env (s : State) :
    (s.settleIrq).env = s.env := rfl

/-! ### `resetBlock` -/

@[simp] theorem State.resetBlock_pred (s : State) :
    (s.resetBlock).pred = { s.pred with ctxF := 0, ctxD := 0, lastD := 0, lsz := 0, configured := false } := rfl
@[simp] theorem State.resetBlock_regs (s : State) :
    (s.resetBlock).regs = HostRegs.reset := rfl
@[simp] theorem State.resetBlock_seq (s : State) :
    (s.resetBlock).seq = { act := .idle, n := 0 } := rfl
@[simp] theorem State.resetBlock_ports (s : State) :
    (s.resetBlock).ports = s.ports := rfl
@[simp] theorem State.resetBlock_irq (s : State) :
    (s.resetBlock).irq = s.irq := rfl
@[simp] theorem State.resetBlock_build (s : State) :
    (s.resetBlock).build = s.build := rfl
@[simp] theorem State.resetBlock_env (s : State) :
    (s.resetBlock).env = { s.env with marks := [] } := rfl

/-! ### `withAct` -/

@[simp] theorem State.withAct_pred (s : State) (act : Act) :
    (s.withAct act).pred = s.pred := rfl
@[simp] theorem State.withAct_regs (s : State) (act : Act) :
    (s.withAct act).regs = s.regs := rfl
@[simp] theorem State.withAct_seq (s : State) (act : Act) :
    (s.withAct act).seq = { s.seq with act := act } := rfl
@[simp] theorem State.withAct_ports (s : State) (act : Act) :
    (s.withAct act).ports = s.ports := rfl
@[simp] theorem State.withAct_irq (s : State) (act : Act) :
    (s.withAct act).irq = s.irq := rfl
@[simp] theorem State.withAct_build (s : State) (act : Act) :
    (s.withAct act).build = s.build := rfl
@[simp] theorem State.withAct_env (s : State) (act : Act) :
    (s.withAct act).env = s.env := rfl

/-! ### `clearFlags` -/

@[simp] theorem HostRegs.clearFlags_logSize (r : HostRegs) (op : BitVec 4) :
    (r.clearFlags op).logSize = r.logSize := rfl
@[simp] theorem HostRegs.clearFlags_count (r : HostRegs) (op : BitVec 4) :
    (r.clearFlags op).count = r.count := rfl
@[simp] theorem HostRegs.clearFlags_capacity (r : HostRegs) (op : BitVec 4) :
    (r.clearFlags op).capacity = r.capacity := rfl
@[simp] theorem HostRegs.clearFlags_srcLen (r : HostRegs) (op : BitVec 4) :
    (r.clearFlags op).srcLen = r.srcLen := rfl
@[simp] theorem HostRegs.clearFlags_done (r : HostRegs) (op : BitVec 4) :
    (r.clearFlags op).done = false := rfl
@[simp] theorem HostRegs.clearFlags_err (r : HostRegs) (op : BitVec 4) :
    (r.clearFlags op).err = false := rfl
@[simp] theorem HostRegs.clearFlags_errCode (r : HostRegs) (op : BitVec 4) :
    (r.clearFlags op).errCode = 0 := rfl
@[simp] theorem HostRegs.clearFlags_lastOp (r : HostRegs) (op : BitVec 4) :
    (r.clearFlags op).lastOp = op := rfl
@[simp] theorem HostRegs.clearFlags_bytes (r : HostRegs) (op : BitVec 4) :
    (r.clearFlags op).bytes = r.bytes := rfl
@[simp] theorem HostRegs.clearFlags_values (r : HostRegs) (op : BitVec 4) :
    (r.clearFlags op).values = r.values := rfl
@[simp] theorem HostRegs.clearFlags_doneIe (r : HostRegs) (op : BitVec 4) :
    (r.clearFlags op).doneIe = r.doneIe := rfl
@[simp] theorem HostRegs.clearFlags_errIe (r : HostRegs) (op : BitVec 4) :
    (r.clearFlags op).errIe = r.errIe := rfl

/-! ### `setError` -/

@[simp] theorem HostRegs.setError_logSize (r : HostRegs) (e : BlockError) :
    (r.setError e).logSize = r.logSize := rfl
@[simp] theorem HostRegs.setError_count (r : HostRegs) (e : BlockError) :
    (r.setError e).count = r.count := rfl
@[simp] theorem HostRegs.setError_capacity (r : HostRegs) (e : BlockError) :
    (r.setError e).capacity = r.capacity := rfl
@[simp] theorem HostRegs.setError_srcLen (r : HostRegs) (e : BlockError) :
    (r.setError e).srcLen = r.srcLen := rfl
@[simp] theorem HostRegs.setError_done (r : HostRegs) (e : BlockError) :
    (r.setError e).done = r.done := rfl
@[simp] theorem HostRegs.setError_err (r : HostRegs) (e : BlockError) :
    (r.setError e).err = true := rfl
@[simp] theorem HostRegs.setError_errCode (r : HostRegs) (e : BlockError) :
    (r.setError e).errCode = errorCode e := rfl
@[simp] theorem HostRegs.setError_lastOp (r : HostRegs) (e : BlockError) :
    (r.setError e).lastOp = r.lastOp := rfl
@[simp] theorem HostRegs.setError_bytes (r : HostRegs) (e : BlockError) :
    (r.setError e).bytes = r.bytes := rfl
@[simp] theorem HostRegs.setError_values (r : HostRegs) (e : BlockError) :
    (r.setError e).values = r.values := rfl
@[simp] theorem HostRegs.setError_doneIe (r : HostRegs) (e : BlockError) :
    (r.setError e).doneIe = r.doneIe := rfl
@[simp] theorem HostRegs.setError_errIe (r : HostRegs) (e : BlockError) :
    (r.setError e).errIe = r.errIe := rfl

/-! ### `writeOneToClear` -/

@[simp] theorem HostRegs.writeOneToClear_logSize (r : HostRegs) (w : Word) :
    (r.writeOneToClear w).logSize = r.logSize := rfl
@[simp] theorem HostRegs.writeOneToClear_count (r : HostRegs) (w : Word) :
    (r.writeOneToClear w).count = r.count := rfl
@[simp] theorem HostRegs.writeOneToClear_capacity (r : HostRegs) (w : Word) :
    (r.writeOneToClear w).capacity = r.capacity := rfl
@[simp] theorem HostRegs.writeOneToClear_srcLen (r : HostRegs) (w : Word) :
    (r.writeOneToClear w).srcLen = r.srcLen := rfl
@[simp] theorem HostRegs.writeOneToClear_done (r : HostRegs) (w : Word) :
    (r.writeOneToClear w).done = (r.done && !w.getLsbD 1) := rfl
@[simp] theorem HostRegs.writeOneToClear_err (r : HostRegs) (w : Word) :
    (r.writeOneToClear w).err = (r.err && !w.getLsbD 2) := rfl
@[simp] theorem HostRegs.writeOneToClear_errCode (r : HostRegs) (w : Word) :
    (r.writeOneToClear w).errCode = if w.getLsbD 2 then 0 else r.errCode := rfl
@[simp] theorem HostRegs.writeOneToClear_lastOp (r : HostRegs) (w : Word) :
    (r.writeOneToClear w).lastOp = r.lastOp := rfl
@[simp] theorem HostRegs.writeOneToClear_bytes (r : HostRegs) (w : Word) :
    (r.writeOneToClear w).bytes = r.bytes := rfl
@[simp] theorem HostRegs.writeOneToClear_values (r : HostRegs) (w : Word) :
    (r.writeOneToClear w).values = r.values := rfl
@[simp] theorem HostRegs.writeOneToClear_doneIe (r : HostRegs) (w : Word) :
    (r.writeOneToClear w).doneIe = r.doneIe := rfl
@[simp] theorem HostRegs.writeOneToClear_errIe (r : HostRegs) (w : Word) :
    (r.writeOneToClear w).errIe = r.errIe := rfl

/-! ### `updF` -/

@[simp] theorem Predictor.updF_tf (p : Predictor) (H : Config.Hashes) (a : Word) :
    (p.updF H a).tf = Memory.write p.tf p.ctxF.toNat a := rfl
@[simp] theorem Predictor.updF_td (p : Predictor) (H : Config.Hashes) (a : Word) :
    (p.updF H a).td = p.td := rfl
@[simp] theorem Predictor.updF_ctxF (p : Predictor) (H : Config.Hashes) (a : Word) :
    (p.updF H a).ctxF = H.f p.lsz p.ctxF a := rfl
@[simp] theorem Predictor.updF_ctxD (p : Predictor) (H : Config.Hashes) (a : Word) :
    (p.updF H a).ctxD = p.ctxD := rfl
@[simp] theorem Predictor.updF_lastD (p : Predictor) (H : Config.Hashes) (a : Word) :
    (p.updF H a).lastD = p.lastD := rfl
@[simp] theorem Predictor.updF_lsz (p : Predictor) (H : Config.Hashes) (a : Word) :
    (p.updF H a).lsz = p.lsz := rfl
@[simp] theorem Predictor.updF_configured (p : Predictor) (H : Config.Hashes) (a : Word) :
    (p.updF H a).configured = p.configured := rfl

/-! ### `updD` -/

@[simp] theorem Predictor.updD_tf (p : Predictor) (H : Config.Hashes) (a : Word) :
    (p.updD H a).tf = p.tf := rfl
@[simp] theorem Predictor.updD_td (p : Predictor) (H : Config.Hashes) (a : Word) :
    (p.updD H a).td = Memory.write p.td p.ctxD.toNat (a - p.lastD) := rfl
@[simp] theorem Predictor.updD_ctxF (p : Predictor) (H : Config.Hashes) (a : Word) :
    (p.updD H a).ctxF = p.ctxF := rfl
@[simp] theorem Predictor.updD_ctxD (p : Predictor) (H : Config.Hashes) (a : Word) :
    (p.updD H a).ctxD = H.d p.lsz p.ctxD (a - p.lastD) := rfl
@[simp] theorem Predictor.updD_lastD (p : Predictor) (H : Config.Hashes) (a : Word) :
    (p.updD H a).lastD = a := rfl
@[simp] theorem Predictor.updD_lsz (p : Predictor) (H : Config.Hashes) (a : Word) :
    (p.updD H a).lsz = p.lsz := rfl
@[simp] theorem Predictor.updD_configured (p : Predictor) (H : Config.Hashes) (a : Word) :
    (p.updD H a).configured = p.configured := rfl

/-! ### `observe` -/

@[simp] theorem Predictor.observe_tf (p : Predictor) (H : Config.Hashes) (a : Word) :
    (p.observe H a).tf = Memory.write p.tf p.ctxF.toNat a := rfl
@[simp] theorem Predictor.observe_td (p : Predictor) (H : Config.Hashes) (a : Word) :
    (p.observe H a).td = Memory.write p.td p.ctxD.toNat (a - p.lastD) := rfl
@[simp] theorem Predictor.observe_ctxF (p : Predictor) (H : Config.Hashes) (a : Word) :
    (p.observe H a).ctxF = H.f p.lsz p.ctxF a := rfl
@[simp] theorem Predictor.observe_ctxD (p : Predictor) (H : Config.Hashes) (a : Word) :
    (p.observe H a).ctxD = H.d p.lsz p.ctxD (a - p.lastD) := rfl
@[simp] theorem Predictor.observe_lastD (p : Predictor) (H : Config.Hashes) (a : Word) :
    (p.observe H a).lastD = a := rfl
@[simp] theorem Predictor.observe_lsz (p : Predictor) (H : Config.Hashes) (a : Word) :
    (p.observe H a).lsz = p.lsz := rfl
@[simp] theorem Predictor.observe_configured (p : Predictor) (H : Config.Hashes) (a : Word) :
    (p.observe H a).configured = p.configured := rfl

/-! ### `fresh` -/

@[simp] theorem Predictor.fresh_tf (p : Predictor) (lsz : BitVec 6) :
    (p.fresh lsz).tf = Memory.clearBelow p.tf (2 ^ lsz.toNat) := rfl
@[simp] theorem Predictor.fresh_td (p : Predictor) (lsz : BitVec 6) :
    (p.fresh lsz).td = Memory.clearBelow p.td (2 ^ lsz.toNat) := rfl
@[simp] theorem Predictor.fresh_ctxF (p : Predictor) (lsz : BitVec 6) :
    (p.fresh lsz).ctxF = 0 := rfl
@[simp] theorem Predictor.fresh_ctxD (p : Predictor) (lsz : BitVec 6) :
    (p.fresh lsz).ctxD = 0 := rfl
@[simp] theorem Predictor.fresh_lastD (p : Predictor) (lsz : BitVec 6) :
    (p.fresh lsz).lastD = 0 := rfl
@[simp] theorem Predictor.fresh_lsz (p : Predictor) (lsz : BitVec 6) :
    (p.fresh lsz).lsz = lsz := rfl
@[simp] theorem Predictor.fresh_configured (p : Predictor) (lsz : BitVec 6) :
    (p.fresh lsz).configured = true := rfl

/-! ### Views -/

@[simp] theorem State.counters_bytes (s : State) : s.counters.bytes = s.regs.bytes := rfl
@[simp] theorem State.counters_values (s : State) : s.counters.values = s.regs.values := rfl
@[simp] theorem State.counters_capacity (s : State) : s.counters.capacity = s.regs.capacity := rfl
@[simp] theorem State.counters_srcLen (s : State) : s.counters.srcLen = s.regs.srcLen := rfl
@[simp] theorem State.raise_busy (s : State) (e : BlockError) : (s.raise e).busy = false := rfl
@[simp] theorem State.complete_busy (s : State) : s.complete.busy = false := rfl
@[simp] theorem State.resetBlock_busy (s : State) : s.resetBlock.busy = false := rfl
@[simp] theorem State.withTurns_busy (s : State) (ts : List Turn) : (s.withTurns ts).busy = s.busy := rfl
@[simp] theorem State.answer_busy (s : State) (r : BusResponse) : (s.answer r).busy = s.busy := rfl
@[simp] theorem State.prologue_busy (s : State) (op : BitVec 4) : (s.prologue op).busy = s.busy := rfl
@[simp] theorem State.takeBin_busy (s : State) (k : Nat) : (s.takeBin k).busy = s.busy := rfl
@[simp] theorem State.settleIrq_busy (s : State) : s.settleIrq.busy = s.busy := rfl

theorem State.busy_iff (s : State) : s.busy = true ↔ s.seq.act ≠ .idle := by
  cases h : s.seq.act <;> simp [State.busy, h]

theorem State.not_busy_iff (s : State) : s.busy = false ↔ s.seq.act = .idle := by
  cases h : s.seq.act <;> simp [State.busy, h]

end Sys2Proof.Machine
end

