-- ==== Sys2Proof/Laws/Ops.lean ====
section
/-! SUPPORT. For each shared operation, one lemma that says everything it can do; the provers cite these instead of
unfolding the operations. -/

namespace Sys2Proof.Machine

/-! ### Outcomes -/

@[simp] theorem andThen_next (s : State) (run : State → StepOutcome) : andThen (.next s) run = run s := rfl

@[simp] theorem andThen_fault (r : Fault) (run : State → StepOutcome) : andThen (.fault r) run = .fault r := rfl

@[simp] theorem andThen_refused (r : Refusal) (run : State → StepOutcome) : andThen (.refused r) run = .refused r := rfl

/-- A chained outcome is a next state exactly when both parts are. -/
theorem andThen_eq_next {o : StepOutcome} {run : State → StepOutcome} {t : State} :
    andThen o run = .next t ↔ ∃ s, o = .next s ∧ run s = .next t := by
  cases o <;> simp [andThen]

/-! ### Commands -/

@[simp] theorem State.accept_busy {s : State} (run : State → State) (h : s.busy = true) : s.accept run = s := by
  simp [State.accept, h]

@[simp] theorem State.accept_idle {s : State} (run : State → State) (h : s.busy = false) : s.accept run = run s := by
  simp [State.accept, h]

/-- Acceptance leaves the state alone or runs the command from an idle state. -/
theorem State.accept_cases (s : State) (run : State → State) :
    (s.busy = true ∧ s.accept run = s) ∨ (s.busy = false ∧ s.accept run = run s) := by
  cases h : s.busy <;> simp [h]

/-- The CONFIG step raises ConfigurationError for an illegal log size, else makes a fresh instance. -/
theorem State.configStep_cases (s : State) :
    ((s.regs.logSize.toNat = 0 ∨ s.build.logSizeMax < s.regs.logSize.toNat) ∧
      s.configStep = s.raise .configuration)
    ∨ (1 ≤ s.regs.logSize.toNat ∧ s.regs.logSize.toNat ≤ s.build.logSizeMax ∧
      s.configStep = { s with pred := s.pred.fresh s.regs.logSize }.complete) := by
  by_cases h : s.regs.logSize.toNat = 0 ∨ s.build.logSizeMax < s.regs.logSize.toNat
  · exact .inl ⟨h, by simp [State.configStep, h]⟩
  · exact .inr ⟨by omega, by omega, by simp [State.configStep, h]⟩

/-- ENCODE and DECODE start under an instance, else raise NotConfigured. -/
theorem State.startUnderInstance_cases (s : State) (act : Act) :
    (s.pred.configured = true ∧ s.startUnderInstance act = s.start act)
    ∨ (s.pred.configured = false ∧ s.startUnderInstance act = s.raise .notConfigured) := by
  cases h : s.pred.configured <;> simp [State.startUnderInstance, h]

/-! ### The parser's guard and what it guards -/

/-- The guard does one of four things. -/
theorem State.parse_cases (s : State) (k : Nat) (run : State → State) :
    (s.seq.act ≠ .decode ∧ s.parse k run = s)
    ∨ (s.seq.act = .decode ∧ s.regs.srcLen.toNat < k ∧ s.parse k run = s.raise .underflow)
    ∨ (s.seq.act = .decode ∧ k ≤ s.regs.srcLen.toNat ∧ s.ports.bin.length < k ∧ s.parse k run = s)
    ∨ (s.seq.act = .decode ∧ k ≤ s.regs.srcLen.toNat ∧ k ≤ s.ports.bin.length ∧ s.parse k run = run (s.takeBin k)) := by
  unfold State.parse
  by_cases h1 : s.seq.act = .decode
  · by_cases h2 : s.regs.srcLen.toNat < k
    · simp [h1, h2]
    · by_cases h3 : s.ports.bin.length < k
      · simp [h1, h2, h3, Nat.not_lt.mp h2]
      · simp [h1, h2, h3, Nat.not_lt.mp h2, Nat.not_lt.mp h3]
  · simp [h1]

/-- Inside DECODE with enough of SRC_LEN and BIN, the guarded operation runs on the state without those bytes. -/
theorem State.parse_run {s : State} {k : Nat} (run : State → State) (hact : s.seq.act = .decode)
    (hlen : k ≤ s.regs.srcLen.toNat) (hbin : k ≤ s.ports.bin.length) : s.parse k run = run (s.takeBin k) := by
  rcases s.parse_cases k run with h | h | h | h
  · exact absurd hact h.1
  · omega
  · omega
  · exact h.2.2.2

/-- The state a real slot leaves, with its payload on BIN. -/
def State.afterRealHalf (s : State) (e : Engine) (c : BitVec 3) : State :=
  let d := decHalf s.hashes s.pred e (s.ports.bin.take (nbytes c))
  { s with
    pred := d.2
    ports := { s.ports with bin := s.ports.bin.drop (nbytes c), vout := s.ports.vout ++ [d.1] }
    regs := { s.regs with
      srcLen := s.regs.srcLen - BitVec.ofNat 64 (nbytes c)
      bytes := s.regs.bytes + BitVec.ofNat 64 (nbytes c)
      values := s.regs.values + 1#64 } }

/-- What a half can do: decode a real slot, skip the synthetic one, raise an underflow, or nothing. -/
theorem State.runHalf_cases (s : State) (e : Engine) (c : BitVec 3) :
    (s.seq.act = .decode ∧ nbytes c ≤ s.regs.srcLen.toNat ∧ nbytes c ≤ s.ports.bin.length ∧
      s.regs.values.toNat < s.seq.n.toNat ∧ s.runHalf e c = s.afterRealHalf e c)
    ∨ (s.seq.act = .decode ∧ nbytes c ≤ s.regs.srcLen.toNat ∧ nbytes c ≤ s.ports.bin.length ∧
      s.seq.n.toNat ≤ s.regs.values.toNat ∧ s.runHalf e c = s.takeBin (nbytes c))
    ∨ (s.seq.act = .decode ∧ s.regs.srcLen.toNat < nbytes c ∧ s.runHalf e c = s.raise .underflow)
    ∨ ((s.seq.act ≠ .decode ∨ s.ports.bin.length < nbytes c) ∧ s.runHalf e c = s) := by
  unfold State.runHalf
  rcases s.parse_cases (nbytes c) _ with ⟨h1, h⟩ | ⟨h1, h2, h⟩ | ⟨h1, h2, h3, h⟩ | ⟨h1, h2, h3, h⟩
  · exact .inr (.inr (.inr ⟨.inl h1, h⟩))
  · exact .inr (.inr (.inl ⟨h1, h2, h⟩))
  · exact .inr (.inr (.inr ⟨.inr h3, h⟩))
  · rw [h]
    by_cases hv : s.regs.values.toNat < s.seq.n.toNat
    · exact .inl ⟨h1, h2, h3, hv, by simp [hv, State.afterRealHalf, State.takeBin]⟩
    · exact .inr (.inl ⟨h1, h2, h3, Nat.not_lt.mp hv, by simp [hv]⟩)

/-- A real slot. -/
theorem State.runHalf_real {s : State} (e : Engine) {c : BitVec 3} (hact : s.seq.act = .decode)
    (hlen : nbytes c ≤ s.regs.srcLen.toNat) (hbin : nbytes c ≤ s.ports.bin.length)
    (hv : s.regs.values.toNat < s.seq.n.toNat) : s.runHalf e c = s.afterRealHalf e c := by
  rcases s.runHalf_cases e c with h | h | h | h
  · exact h.2.2.2.2
  · omega
  · omega
  · rcases h.1 with h | h
    · exact absurd hact h
    · omega

/-- The synthetic slot. -/
theorem State.runHalf_synthetic {s : State} (e : Engine) {c : BitVec 3} (hact : s.seq.act = .decode)
    (hlen : nbytes c ≤ s.regs.srcLen.toNat) (hbin : nbytes c ≤ s.ports.bin.length)
    (hv : s.seq.n.toNat ≤ s.regs.values.toNat) : s.runHalf e c = s.takeBin (nbytes c) := by
  rcases s.runHalf_cases e c with h | h | h | h
  · omega
  · exact h.2.2.2.2
  · omega
  · rcases h.1 with h | h
    · exact absurd hact h
    · omega

/-! ### ENCODE's steps -/

/-- The end of a record step: CapacityExhausted, or the whole record on BOUT and a record boundary. -/
theorem State.emitRecord_cases (s : State) (record : List Byte) (nvals : Nat) :
    (s.regs.capacity.toNat < record.length ∧ s.emitRecord record nvals = s.raise .capacityExhausted)
    ∨ (record.length ≤ s.regs.capacity.toNat ∧ s.emitRecord record nvals =
      { s with
        ports := { s.ports with bout := s.ports.bout ++ record }
        regs := { s.regs with
          capacity := s.regs.capacity - BitVec.ofNat 64 record.length
          bytes := s.regs.bytes + BitVec.ofNat 64 record.length
          values := s.regs.values + BitVec.ofNat 64 nvals } }.mark) := by
  by_cases h : s.regs.capacity.toNat < record.length
  · exact .inl ⟨h, by simp [State.emitRecord, h]⟩
  · exact .inr ⟨Nat.not_lt.mp h, by simp [State.emitRecord, h]⟩

/-- What the block can do while ACT = ENCODE: end, write a full record, write a padding record, or wait. -/
theorem State.encodeStep_cases (s : State) :
    (s.seq.n.toNat ≤ s.regs.values.toNat ∧ s.encodeStep = s.complete)
    ∨ (∃ a1 a2 rest, s.regs.values.toNat + 2 ≤ s.seq.n.toNat ∧ s.ports.vin = a1 :: a2 :: rest ∧
        s.encodeStep = s.fullRecord a1 a2 rest)
    ∨ (∃ a1 rest, s.regs.values.toNat + 1 = s.seq.n.toNat ∧ s.ports.vin = a1 :: rest ∧
        s.encodeStep = s.paddingRecord a1 rest)
    ∨ (s.regs.values.toNat < s.seq.n.toNat ∧
        s.ports.vin.length < min 2 (s.seq.n.toNat - s.regs.values.toNat) ∧ s.encodeStep = s) := by
  unfold State.encodeStep State.encodeRecordStep
  by_cases hv : s.regs.values.toNat < s.seq.n.toNat
  · by_cases h2 : 2 ≤ s.seq.n.toNat - s.regs.values.toNat
    · rcases hvin : s.ports.vin with _ | ⟨a1, _ | ⟨a2, rest⟩⟩
      · exact .inr (.inr (.inr ⟨hv, by simp; omega, by simp [hv, h2]⟩))
      · exact .inr (.inr (.inr ⟨hv, by simp; omega, by simp [hv, h2]⟩))
      · exact .inr (.inl ⟨a1, a2, rest, by omega, rfl, by simp [hv, h2]⟩)
    · rcases hvin : s.ports.vin with _ | ⟨a1, rest⟩
      · exact .inr (.inr (.inr ⟨hv, by simp; omega, by simp [hv, h2]⟩))
      · exact .inr (.inr (.inl ⟨a1, rest, by omega, rfl, by simp [hv, h2]⟩))
  · exact .inl ⟨Nat.not_lt.mp hv, by simp [hv]⟩

/-! ### DECODE's steps -/

/-- What the block can do while ACT = DECODE: end, underflow at the header or at the body, wait, or run a record whose
bytes are all there. -/
theorem State.decodeStep_cases (s : State) :
    (s.seq.n.toNat ≤ s.regs.values.toNat ∧ s.decodeStep = .next s.complete)
    ∨ (s.regs.values.toNat < s.seq.n.toNat ∧ s.regs.srcLen.toNat = 0 ∧ s.decodeStep = .next (s.raise .underflow))
    ∨ (∃ h body, s.regs.values.toNat < s.seq.n.toNat ∧ s.ports.bin = h :: body ∧ 1 ≤ s.regs.srcLen.toNat ∧
        s.regs.srcLen.toNat - 1 < bodyLength h s.atPadding ∧
        s.decodeStep = .next ((s.takeBin 1).raise .underflow))
    ∨ (s.regs.values.toNat < s.seq.n.toNat ∧ 1 ≤ s.regs.srcLen.toNat ∧ s.decodeStep = .next s)
    ∨ (∃ h body, s.regs.values.toNat < s.seq.n.toNat ∧ s.ports.bin = h :: body ∧
        bodyLength h s.atPadding + 1 ≤ s.regs.srcLen.toNat ∧ bodyLength h s.atPadding ≤ body.length ∧
        s.decodeStep = runRecord h s.atPadding (s.takeBin 1)) := by
  unfold State.decodeStep State.decodeRecordStep
  by_cases hv : s.regs.values.toNat < s.seq.n.toNat
  · by_cases h0 : s.regs.srcLen.toNat = 0
    · exact .inr (.inl ⟨hv, h0, by simp [hv, h0]⟩)
    · rcases hbin : s.ports.bin with _ | ⟨h, body⟩
      · exact .inr (.inr (.inr (.inl ⟨hv, by omega, by simp [hv, h0]⟩)))
      · by_cases h1 : s.regs.srcLen.toNat - 1 < bodyLength h s.atPadding
        · exact .inr (.inr (.inl ⟨h, body, hv, rfl, by omega, h1, by simp [hv, h0, h1]⟩))
        · by_cases h2 : body.length < bodyLength h s.atPadding
          · exact .inr (.inr (.inr (.inl ⟨hv, by omega, by simp [hv, h0, h1, h2]⟩)))
          · exact .inr (.inr (.inr (.inr ⟨h, body, hv, rfl, by omega, by omega, by simp [hv, h0, h1, h2]⟩)))
  · exact .inl ⟨Nat.not_lt.mp hv, by simp [hv]⟩

/-- The engine a header nibble names, and its code. -/
def nibbleEngine (h : BitVec 4) : Engine := if h.getLsbD 3 then .dfcm else .fcm

/-- A half runs with the engine and the code of its nibble. -/
theorem exec_decodeHalf (h : BitVec 4) (s : State) :
    exec (decodeHalf h) s = .next (s.runHalf (nibbleEngine h) (h.extractLsb' 0 3)) := by
  have key : ∀ h : BitVec 4, h = 0 ∨ h = 1 ∨ h = 2 ∨ h = 3 ∨ h = 4 ∨ h = 5 ∨ h = 6 ∨ h = 7 ∨ h = 8 ∨ h = 9 ∨ h = 10
      ∨ h = 11 ∨ h = 12 ∨ h = 13 ∨ h = 14 ∨ h = 15 := by decide
  rcases key h with rfl | rfl | rfl | rfl | rfl | rfl | rfl | rfl | rfl | rfl | rfl | rfl | rfl | rfl | rfl | rfl <;> rfl

/-- C1 is the code of the high nibble. -/
theorem headerCode1_eq (h : Byte) : (h.extractLsb' 4 4).extractLsb' 0 3 = headerCode1 h := by
  revert h; decide

/-- C2 is the code of the low nibble. -/
theorem headerCode2_eq (h : Byte) : (h.extractLsb' 0 4).extractLsb' 0 3 = headerCode2 h := by
  revert h; decide

/-- A record runs its two halves and, in a padding record, discards one more byte, and then marks a boundary. -/
theorem runRecord_eq (h : Byte) (pad : Bool) (s : State) :
    runRecord h pad s = .next
      (let t := (s.runHalf (nibbleEngine (h.extractLsb' 4 4)) (headerCode1 h)).runHalf
          (nibbleEngine (h.extractLsb' 0 4)) (headerCode2 h)
       if pad then (t.parse 1 fun u => u).mark else t.mark) := by
  unfold runRecord decodeSlot1 decodeSlot2
  rw [exec_decodeHalf, andThen_next, exec_decodeHalf, andThen_next, headerCode1_eq, headerCode2_eq]
  cases pad <;> rfl

/-! ### Discards -/

/-- A discard replaces the ports of an idle machine, and does nothing while a command runs. -/
theorem State.discard_cases (s : State) (ports : Ports) :
    (s.busy = true ∧ s.discard ports = s) ∨ (s.busy = false ∧ s.discard ports = { s with ports := ports }) := by
  cases h : s.busy <;> simp [State.discard, h]

/-! ### Whose turn it is -/

/-- The state that moves once the turn is off the list. -/
def State.atTurn (s : State) : State := s.withTurns s.env.turns.tail

/-- A step is a block step or one outside action, after which `irq` follows. -/
theorem step_cases {s t : State} (h : step s = .next t) :
    (∃ u, s.atTurn.blockStep = .next u ∧ t = u.settleIrq)
    ∨ (∃ act u, s.atTurn.outsideStep act = .next u ∧ t = u.settleIrq) := by
  unfold step State.move at h
  obtain ⟨u, hu, ht⟩ := andThen_eq_next.mp h
  have ht' : t = u.settleIrq := by simpa using ht.symm
  rcases hturns : s.env.turns with _ | ⟨turn, ts⟩
  · refine .inl ⟨u, ?_, ht'⟩
    have hs : s.atTurn = s := by
      simp [State.atTurn, State.withTurns, hturns]
      obtain ⟨_, _, _, _, _, _, ⟨_, _, _, _⟩⟩ := s
      simp_all
    simpa [hturns, hs] using hu
  · have hs : s.atTurn = s.withTurns ts := by simp [State.atTurn, hturns]
    cases turn with
    | block => exact .inl ⟨u, by simpa [hturns, hs] using hu, ht'⟩
    | outside act => exact .inr ⟨act, u, by simpa [hturns, hs] using hu, ht'⟩

end Sys2Proof.Machine
end

