-- ==== Sys2Proof/Laws/PerInstr.lean ====
section
/-! SUPPORT. A family of facts about every instruction as syntax, one lemma per constructor: how many bytes it is
encoded in (30_encoding.md R140). -/

namespace Sys2Proof.Laws.EncodedLength

/-- The number of bytes of a format: a CMD word has 64 bits, a header byte and the terminator 8 (R140). -/
def formatBytes : Format → Nat
  | .cmd => 8
  | .slot1 => 1
  | .slot2 => 1
  | .term => 1

/-- An instruction is encoded in exactly the bytes of its format. -/
def Statement (i : Instr) : Prop := (encode i).length = formatBytes i.format

theorem nop : Statement .nop := rfl
theorem config : Statement .config := rfl
theorem encode : Statement .encode := rfl
theorem decode : Statement .decode := rfl
theorem reserved47 (op : BitVec 4) : Statement (.reserved47 op) := rfl
theorem reserved8F (op : BitVec 4) : Statement (.reserved8F op) := rfl
theorem halfF0 : Statement .halfF0 := rfl
theorem halfF1 : Statement .halfF1 := rfl
theorem halfF2 : Statement .halfF2 := rfl
theorem halfF3 : Statement .halfF3 := rfl
theorem halfF5 : Statement .halfF5 := rfl
theorem halfF6 : Statement .halfF6 := rfl
theorem halfF7 : Statement .halfF7 := rfl
theorem halfF8 : Statement .halfF8 := rfl
theorem halfD0 : Statement .halfD0 := rfl
theorem halfD1 : Statement .halfD1 := rfl
theorem halfD2 : Statement .halfD2 := rfl
theorem halfD3 : Statement .halfD3 := rfl
theorem halfD5 : Statement .halfD5 := rfl
theorem halfD6 : Statement .halfD6 := rfl
theorem halfD7 : Statement .halfD7 := rfl
theorem halfD8 : Statement .halfD8 := rfl
theorem term : Statement .term := rfl

end Sys2Proof.Laws.EncodedLength
end

