-- ==== Sys2Proof/Laws/Predictors.lean ====
section
/-! SUPPORT. The range of the mixing functions a machine can be built with, and what observing a value keeps of the tables. -/

namespace Sys2Proof.Machine

theorem maskWord_toNat {n : Nat} (h : n ≤ 32) : (maskWord n).toNat = 2 ^ n - 1 := by
  interval_cases n <;> rfl

/-- A word masked to `n ≤ 32` bits and cut to 32 is below `2 ^ n`. -/
theorem masked_lt (x : Word) {n : Nat} (h : n ≤ 32) : ((x &&& maskWord n).setWidth 32).toNat < 2 ^ n := by
  rw [BitVec.toNat_setWidth, BitVec.toNat_and, maskWord_toNat h, Nat.and_two_pow_sub_one_eq_mod]
  exact Nat.lt_of_le_of_lt (Nat.mod_le _ _) (Nat.mod_lt _ (Nat.two_pow_pos n))

/-- Every pair a machine can be built with meets the range condition of 00_scope.md R5 and R6. -/
theorem mixingHashes_inRange (m : Config.Mixing) {n : Nat} (hn : n ≤ 32) : (mixingHashes m).InRange n := by
  intro lsz ctx a _ h _
  cases m <;> exact ⟨masked_lt _ (h.trans hn), masked_lt _ (h.trans hn)⟩

/-- LOG_SIZE_MAX is at most 32 (R4). -/
theorem logSizeMax_le (b : Config.Build) : b.logSizeMax ≤ 32 := b.maxIdx.isLt

/-- The machine's own pair meets it. -/
theorem State.hashes_inRange (s : State) : s.hashes.InRange s.build.logSizeMax :=
  mixingHashes_inRange _ (logSizeMax_le s.build)

@[simp] theorem mixingHashes_standard : mixingHashes .standard = defaultHashes := rfl

/-! ### No update changes the pair -/

@[simp] theorem State.prologue_hashes (s : State) (op : BitVec 4) : (s.prologue op).hashes = s.hashes := rfl
@[simp] theorem State.withAct_hashes (s : State) (act : Act) : (s.withAct act).hashes = s.hashes := rfl
@[simp] theorem State.raise_hashes (s : State) (e : BlockError) : (s.raise e).hashes = s.hashes := rfl
@[simp] theorem State.complete_hashes (s : State) : s.complete.hashes = s.hashes := rfl
@[simp] theorem State.start_hashes (s : State) (act : Act) : (s.start act).hashes = s.hashes := rfl
@[simp] theorem State.takeBin_hashes (s : State) (k : Nat) : (s.takeBin k).hashes = s.hashes := rfl
@[simp] theorem State.mark_hashes (s : State) : s.mark.hashes = s.hashes := rfl
@[simp] theorem State.answer_hashes (s : State) (r : BusResponse) : (s.answer r).hashes = s.hashes := rfl
@[simp] theorem State.resetBlock_hashes (s : State) : s.resetBlock.hashes = s.hashes := rfl
@[simp] theorem State.withTurns_hashes (s : State) (ts : List Turn) : (s.withTurns ts).hashes = s.hashes := rfl
@[simp] theorem State.settleIrq_hashes (s : State) : s.settleIrq.hashes = s.hashes := rfl

/-! ### Observing a value -/

/-- Observing a value keeps both tables in canonical form. -/
theorem Predictor.observe_wf {p : Predictor} (H : Config.Hashes) (a : Word) (hf : Memory.wf p.tf)
    (hd : Memory.wf p.td) : Memory.wf (p.observe H a).tf ∧ Memory.wf (p.observe H a).td :=
  ⟨Memory.write_wf hf _ _, Memory.write_wf hd _ _⟩

/-- Encoding and decoding a value both leave the predictor state `observe` leaves. -/
@[simp] theorem encHalf_snd (H : Config.Hashes) (p : Predictor) (a : Word) : (encHalf H p a).2 = p.observe H a := rfl

@[simp] theorem encHalf_fst (H : Config.Hashes) (p : Predictor) (a : Word) : (encHalf H p a).1 = p.halfOf a := rfl

theorem decHalf_snd (H : Config.Hashes) (p : Predictor) (e : Engine) (payload : List Byte) :
    (decHalf H p e payload).2 = p.observe H (decHalf H p e payload).1 := rfl

theorem decHalf_fst (H : Config.Hashes) (p : Predictor) (e : Engine) (payload : List Byte) :
    (decHalf H p e payload).1 = des payload ^^^ p.predict e := rfl

/-- A half's payload has the length of its code. -/
theorem Predictor.halfOf_payload_length (p : Predictor) (a : Word) :
    (p.halfOf a).payload.length = nbytes (p.halfOf a).code := ser_length _ _

end Sys2Proof.Machine
end

