-- ==== Sys2Proof/Tests/Slice0.lean ====
section
/-! SUPPORT. Tests: expected values are the worked examples and vectors of spec/95_test_vectors.md (E…, V-…) and of the
rules named, written out by hand; and a witness for every statement that has hypotheses. -/

namespace Sys2Proof.Tests

open Sys2Proof Sys2Proof.Machine Sys2Proof.Stated

set_option Elab.async false

/-! ### Helpers -/

/-- 1.0, as the vectors name it. -/
def one : Word := 0x3FF0000000000000

/-- The bytes of V-A2: `rec F0, F8` for 1.0, 0.0 on `fresh(10)`. -/
def bytesA2 : List Byte := [0x07, 0, 0, 0, 0, 0, 0, 0xF0, 0x3F]

/-- The bytes of V-B1's padding record `pad F0`, with 1.0 in place of 0.5. -/
def bytesPad : List Byte := [0x07, 0, 0, 0, 0, 0, 0, 0xF0, 0x3F, 0]

/-- The predictor state of `fresh(L)`. -/
def freshPred (L : BitVec 6) : Predictor := State.reset.pred.fresh L

/-- `fresh(L)`, idle. -/
def fresh (L : BitVec 6) : State := { State.reset with pred := freshPred L }

/-- `fresh(L)` with these registers and ports. -/
def idleWith (L : BitVec 6) (regs : HostRegs) : State := { fresh L with regs := regs }

/-- `fresh(10)` while ENCODE of `n` values runs, before its first record. -/
def encoding (n capacity : Word) (vin : List Word) : State :=
  { fresh 10 with
    regs := { HostRegs.reset with capacity := capacity, lastOp := 2 }
    seq := { act := .encode, n := n }
    ports := { vin := vin, bout := [], bin := [], vout := [] }
    env := { State.reset.env with marks := [{ bytes := 0, values := 0, capacity := capacity, srcLen := 0 }] } }

/-- `fresh(10)` while DECODE of `n` values runs, before its first record. -/
def decoding (n srcLen : Word) (bin : List Byte) : State :=
  { fresh 10 with
    regs := { HostRegs.reset with srcLen := srcLen, lastOp := 3 }
    seq := { act := .decode, n := n }
    ports := { vin := [], bout := [], bin := bin, vout := [] }
    env := { State.reset.env with marks := [{ bytes := 0, values := 0, capacity := 0, srcLen := srcLen }] } }

/-- The state an outcome gives, if it gives one. -/
def nextOf : StepOutcome → Option State
  | .next t => some t
  | .fault _ => none
  | .refused _ => none

/-- A property of the state an outcome gives; false where it gives none. -/
def gives (o : StepOutcome) (p : State → Bool) : Bool := ((nextOf o).map p).getD false

/-! ### Well-formedness -/

theorem test_ill_formed_reserved47_refused : (Instr.reserved47 3).wellFormed = false ∧
    (Instr.reserved47 8).wellFormed = false := by decide

theorem test_ill_formed_reserved8F_refused : (Instr.reserved8F 7).wellFormed = false ∧
    (Instr.reserved8F 0).wellFormed = false := by decide

theorem test_reserved_ranges_accepted : (Instr.reserved47 4).wellFormed = true ∧
    (Instr.reserved47 7).wellFormed = true ∧ (Instr.reserved8F 8).wellFormed = true ∧
    (Instr.reserved8F 15).wellFormed = true := by decide

/-! ### Decoding: the words are written out from R142, R144 and R162 -/

theorem test_decode_commands :
    [0x0, 0x1, 0x2, 0x3, 0x4, 0x7, 0x8, 0xF].map decodeCmd
      = [.nop, .config, .encode, .decode, .reserved47 4, .reserved47 7, .reserved8F 8, .reserved8F 15] := by decide

/-- Bits 63..4 of CMD are ignored (R141). -/
theorem test_decode_command_ignores_high_bits : decodeCmd 0xFFFFFFFFFFFFFFF2 = .encode := by decide

/-- Slot 2: the low nibble. -/
theorem test_decode_slot2 :
    [0b00000000, 0b00000001, 0b00000010, 0b00000011, 0b00000100, 0b00000101, 0b00000110, 0b00000111].map decodeSlot2
      = [.halfF0, .halfF1, .halfF2, .halfF3, .halfF5, .halfF6, .halfF7, .halfF8]
    ∧ [0b00001000, 0b00001001, 0b00001010, 0b00001011, 0b00001100, 0b00001101, 0b00001110, 0b00001111].map decodeSlot2
      = [.halfD0, .halfD1, .halfD2, .halfD3, .halfD5, .halfD6, .halfD7, .halfD8] := by decide

/-- Slot 1: the high nibble; 0x6F is `F7, D8` (V-ST), 0x9F `D1, D8` (V-FL), 0x55 `F6, F6` (V-C1a), 0x33 `F3, F3`
(V-Z4). -/
theorem test_decode_slot1 :
    [0x6F, 0x9F, 0x55, 0x33].map decodeSlot1 = [.halfF7, .halfD1, .halfF6, .halfF3] ∧
    [0x6F, 0x9F, 0x55, 0x33].map decodeSlot2 = [.halfD8, .halfD8, .halfF6, .halfF3] := by decide

/-- Any byte is a terminator (R155). -/
theorem test_decode_term : decodeBytes .term [0x55] = .ok (.term, []) ∧ decodeBytes .term [] = .error (.truncated .term) := by
  decide

/-- A CMD word is eight bytes, the opcode in the first (R105, R141). -/
theorem test_decode_cmd_bytes : decodeBytes .cmd [0x03, 0, 0, 0, 0, 0, 0, 0x80] = .ok (.decode, []) ∧
    decodeBytes .cmd [0x03, 0, 0, 0, 0, 0, 0] = .error (.truncated .cmd) := by decide

theorem test_table_words : decodeTableWord 64 0x1 = some .config ∧ decodeTableWord 8 0x0C = some .halfD5 ∧
    decodeTableWord 0 0 = some .term := by decide

/-! ### Placing a table word -/

/-- CONFIG as the first instruction after reset: LOG_SIZE is 0 there, so ConfigurationError, STATUS 0x10014. -/
theorem test_fetch_command : gives (step (State.reset.withFetchWord 64 1)) (fun t => t.statusWord == 0x10014) := by
  decide +kernel

/-- HALF.D8 as the first instruction: one value, from a fresh instance's prediction 0 (V-H5). -/
theorem test_fetch_half : gives (step (State.reset.withFetchWord 8 0xF)) (fun t => t.ports.vout == [0]) := by
  decide +kernel

/-- TERM: the whole padding record is consumed, terminator included. -/
theorem test_fetch_term : gives (step (State.reset.withFetchWord 0 0)) (fun t =>
    t.ports.bin == [] && t.regs.bytes == 2) := by decide +kernel

/-! ### State -/

theorem test_reset_memory_wf : Memory.wf State.reset.pred.tf ∧ Memory.wf State.reset.pred.td := by decide

theorem test_write_blank_unlists : Memory.write [(3, 7)] 3 0 = [] ∧ Memory.write [(3, 7)] 1 5 = [(1, 5), (3, 7)] := by
  decide

/-! ### Codes, selection, payloads -/

/-- The lzb table of the vectors' section 2.2. -/
theorem test_lzb : [0x0, 0x1, 0xFF, 0x100, 0xFFFF, 0x12345678, 0xFF00000000, 0x0010000000000000, 0x00FFFFFFFFFFFFFF,
    0x8000000000000000].map lzb = [8, 7, 7, 6, 6, 4, 3, 1, 1, 0] := by decide +kernel

/-- V-S1 to V-S7. -/
theorem test_select : [selectEngine 0 0, selectEngine 0 5, selectEngine 5 0, selectEngine 0x100 0xFF,
    selectEngine 0x200 0x100, selectEngine 0x3FF0000000000000 0x7FE0000000000000,
    selectEngine 0x7FF8000000000000 0x0018000000000000] = [.fcm, .fcm, .dfcm, .dfcm, .fcm, .fcm, .dfcm] := by
  decide +kernel

/-- V-R1 to V-R4. -/
theorem test_ser : ser one 8 = [0, 0, 0, 0, 0, 0, 0xF0, 0x3F] ∧ ser 0x0010000000000000 7 = [0, 0, 0, 0, 0, 0, 0x10] ∧
    ser 0x12345678 5 = [0x78, 0x56, 0x34, 0x12, 0] ∧ ser 0x0200 2 = [0, 2] := by decide +kernel

/-- V-R6, V-R7. -/
theorem test_des : des [0x78, 0x56, 0x34, 0x12, 0x99] = 0x0000009912345678 ∧ des [] = 0 := by decide +kernel

/-! ### The engines -/

/-- V-P2, V-P3: the context after 1.0 on `fresh(10)` and `fresh(4)`. -/
theorem test_updF : (Predictor.updF defaultHashes one (freshPred 10)).ctxF = 0x3F0 ∧
    (Predictor.updF defaultHashes one (freshPred 4)).predF = one := by decide +kernel

/-- V-P4: the DFCM prediction after 1.0 on `fresh(10)`. -/
theorem test_updD : (Predictor.updD defaultHashes one (freshPred 10)).predD = 0x7FE0000000000000 := by decide +kernel

/-- V-P5: the carry of `predD` is discarded. -/
theorem test_predD_wraps : ({ freshPred 10 with lastD := 0xFFFFFFFFFFFFFFFF, td := [(0, 1)] } : Predictor).predD = 0 := by
  decide +kernel

/-- V-P6: a difference wraps. -/
theorem test_updD_wraps : (Predictor.updD defaultHashes 0 { freshPred 10 with lastD := one }).td = [(0, 0xC010000000000000)] := by
  decide +kernel

/-- V-P7: both contexts after 1.0, 0.0 on `fresh(16)`. -/
theorem test_observe : let p := ((freshPred 16).observe defaultHashes one).observe defaultHashes 0
    p.ctxF = 0xFC00 ∧ p.ctxD = 0xD000 := by decide +kernel

/-! ### One step of each instruction -/

theorem test_nop_while_error : exec .nop { State.reset with regs := { HostRegs.reset with err := true, errCode := 4 } }
    = .next { State.reset with regs := { HostRegs.reset with err := true, errCode := 4 } } := rfl

/-- STATUS of `config 10`: 0x10A0A. -/
theorem test_config : gives (exec .config (idleWith 4 { HostRegs.reset with logSize := 10 })) (fun t =>
    t.statusWord == 0x10A0A) := by decide +kernel

/-- V-CF17 on LOG_SIZE_MAX 16: 0x10014, and the earlier instance has ended. -/
theorem test_config_too_large : gives (exec .config (idleWith 10 { HostRegs.reset with logSize := 17 })) (fun t =>
    t.statusWord == 0x10014) := by decide +kernel

/-- ENCODE starts: BUSY and CONFIGURED, LSZ 10, LAST_OP 2. -/
theorem test_encode : gives (exec .encode (idleWith 10 { HostRegs.reset with count := 3 })) (fun t =>
    t.statusWord == 0x20A09 && t.seq.n == 3) := by decide +kernel

/-- ENCODE without an instance: 0x20054. -/
theorem test_encode_not_configured : gives (exec .encode State.reset) (fun t => t.statusWord == 0x20054) := by
  decide +kernel

/-- DECODE starts: BUSY and CONFIGURED, LSZ 10, LAST_OP 3. -/
theorem test_decode : gives (exec .decode (idleWith 10 { HostRegs.reset with count := 2 })) (fun t =>
    t.statusWord == 0x30A09 && t.seq.n == 2) := by decide +kernel

/-- DECODE without an instance: 0x30054. -/
theorem test_decode_not_configured : gives (exec .decode State.reset) (fun t => t.statusWord == 0x30054) := by
  decide +kernel

/-- OP 5: IllegalCommand, the instance stays. -/
theorem test_reserved47 : gives (exec (.reserved47 5) (fresh 10)) (fun t => t.statusWord == 0x50A4C) := by decide +kernel

/-- OP 9: IllegalCommand, without an instance. -/
theorem test_reserved8F : gives (exec (.reserved8F 9) State.reset) (fun t => t.statusWord == 0x90044) := by decide +kernel

/-- Each half takes as many payload bytes as R152 says: from nine bytes the rest is left on BIN. -/
theorem test_half_lengths : halfRows.map (fun row =>
    ((nextOf (exec row.1 (decoding 2 9 (List.replicate 9 1)))).map fun t => t.ports.bin.length).getD 99)
    = [1, 2, 3, 4, 6, 7, 8, 9, 1, 2, 3, 4, 6, 7, 8, 9] := by decide +kernel

/-- An FCM half XORs its residual with `predF`, a DFCM half with `predD`: V-H3's state, predictions 0x10 and 0x20. -/
theorem test_half_engines :
    gives (exec .halfF7 { decoding 2 1 [0x03] with pred := (freshPred 10).observe defaultHashes 0x10 }) (fun t => t.ports.vout == [0x13])
    ∧ gives (exec .halfD7 { decoding 2 1 [0x03] with pred := (freshPred 10).observe defaultHashes 0x10 })
      (fun t => t.ports.vout == [0x23]) := by decide +kernel

/-- V-H4 in a record: F0 gives 1.0. -/
theorem test_halfF0 : gives (exec .halfF0 (decoding 2 8 (bytesA2.drop 1))) (fun t => t.ports.vout == [one]) := by
  decide +kernel

/-- TERM takes one byte whatever it is. -/
theorem test_term : gives (exec .term { decoding 1 2 [0x55, 0x66] with regs := { HostRegs.reset with srcLen := 2, values := 1 } })
    (fun t => t.ports.bin == [0x66] && t.regs.srcLen == 1) := by decide +kernel

/-! ### One record step -/

/-- V-A2: the record of 1.0, 0.0 on `fresh(10)`. -/
theorem test_encode_record : gives (encoding 2 100 [one, 0]).blockStep (fun t =>
    t.ports.bout == bytesA2 && t.regs.capacity == 91) := by decide +kernel

/-- The capacity of V-A2's record less one raises CapacityExhausted: nothing is pushed. -/
theorem test_encode_capacity : gives (encoding 2 8 [one, 0]).blockStep (fun t =>
    t.ports.bout == [] && t.statusWord == 0x20024) := by decide +kernel

/-- V-A2 decoded. -/
theorem test_decode_record : gives (decoding 2 9 bytesA2).blockStep (fun t =>
    t.ports.vout == [one, 0] && t.regs.srcLen == 0) := by decide +kernel

/-- V-A2 with its last byte cut off underflows at the body: only the header is popped. -/
theorem test_decode_underflow : gives (decoding 2 8 (bytesA2.take 8)).blockStep (fun t =>
    t.statusWord == 0x30034 && t.regs.bytes == 1 && t.ports.vout == []) := by decide +kernel

/-! ### The window -/

/-- A read of the reserved offset 0x48 gets a bus error, a read of STATUS answers it. -/
theorem test_bus : gives ((fresh 10).outsideStep (.busRead 0x48 64)) (fun t => t.env.bus == .error) ∧
    gives ((fresh 10).outsideStep (.busRead 0x28 64)) (fun t => t.env.bus == .data 0xA08) := by decide +kernel

/-- CFG keeps six bits. -/
theorem test_cfg_write : gives (State.reset.outsideStep (.busWrite 0x08 64 0x4A)) (fun t => t.regs.logSize == 10) := by
  decide +kernel

/-! ### Witnesses: a state and operands that meet the hypotheses of each statement, clause by clause at its boundaries -/

theorem witness_DecodeReadsBackEveryEncoding :
    [Instr.nop, .reserved47 4, .reserved47 7, .reserved8F 8, .reserved8F 15, .halfF0, .halfD8, .term].all
      Instr.wellFormed = true := by decide

theorem witness_HeaderHoldsExactlyTwoHalves : Instr.halfF7.format = .slot2 ∧ Instr.halfD8.format = .slot2 := by decide

theorem witness_CommandIsSelectedByOpAlone :
    (0 : BitVec 4) = 0 ∧ (1 : BitVec 4) = 1 ∧ (2 : BitVec 4) = 2 ∧ (3 : BitVec 4) = 3
    ∧ (∀ op ∈ [(4 : BitVec 4), 7], 4 ≤ op.toNat ∧ op.toNat ≤ 7) ∧ ∀ op ∈ [(8 : BitVec 4), 15], 8 ≤ op.toNat := by decide

/-- `fresh(10)` with one turn to come. -/
def withTurn (turn : Turn) : State := (fresh 10).withTurns [turn]

theorem witness_StepTakesTheNextTurn : (fresh 10).env.turns = [] ∧ (withTurn .block).env.turns = .block :: []
    ∧ (withTurn (.outside .reset)).env.turns = .outside .reset :: [] := by decide

theorem witness_StepRunsTheCommandWritten :
    decodeBytes .cmd [0x12, 0, 0, 0, 0, 0, 0, 0] = .ok (.encode, [])
    ∧ (withTurn (.outside (.busWrite 0 64 0x12))).env.turns =
      .outside (.busWrite (fresh 10).build.regBase 64 (wordOfBytes [0x12, 0, 0, 0, 0, 0, 0, 0])) :: [] := by decide +kernel

/-- V-A2's record, and a padding record. -/
theorem witness_StepRunsTheHalvesFetched :
    ∀ s ∈ [decoding 2 9 bytesA2, decoding 1 10 bytesPad],
      s.seq.act = .decode ∧ s.regs.values.toNat < s.seq.n.toNat ∧ s.env.turns = []
      ∧ s.ports.bin = 0x07 :: s.ports.bin.tail
      ∧ decodeBytes .slot1 [0x07] = .ok (.halfF0, []) ∧ decodeBytes .slot2 [0x07] = .ok (.halfF8, [])
      ∧ bodyLength 0x07 s.atPadding ≤ s.ports.bin.tail.length
      ∧ bodyLength 0x07 s.atPadding + 1 ≤ s.regs.srcLen.toNat := by decide +kernel

theorem witness_CodeTablesAreTheSpecs : (∀ z ∈ [0, 3, 5, 8], z ≤ 8 ∧ z ≠ 4) ∧ 4 ≤ 8 := by decide

theorem witness_LzbIsTheLeadingZeroByteCount :
    (0 : Word) = 0 ∧ (0x12345678 : Word) ≠ 0 ∧ (0x12345678 : Word).toNat < 2 ^ (64 - 8 * 4)
    ∧ (0xFF : Word).toNat ≤ (0x100 : Word).toNat := by decide

theorem witness_SelectorIsDfcmOnlyOnMoreZeroBytes : (0 : Word) = 0 ∧ (0x5 : Word) ≠ 0 := by decide

theorem witness_PayloadBytesAreLittleEndian : 5 ≤ 8 ∧ ([1, 2, 3, 4, 5, 6, 7, 8] : List Byte).length ≤ 8 := by decide

theorem witness_PayloadCarriesTheWholeResidual : 8 - inv (codeOf (lzb 0x12345678)) ≤ 5 ∧ 5 ≤ 7 := by decide +kernel

/-- On `fresh(10)` the FCM context does not move on 1. -/
theorem witness_FcmUpdateWritesSlotAndContext :
    Memory.wf (freshPred 10).tf ∧ defaultHashes.InRange 32
    ∧ (∀ p ∈ [freshPred 1, freshPred 32], 1 ≤ p.lsz.toNat ∧ p.lsz.toNat ≤ 32 ∧ p.ctxF.toNat < 2 ^ p.lsz.toNat)
    ∧ defaultHashes.f (freshPred 10).lsz (freshPred 10).ctxF 1 = (freshPred 10).ctxF ∧ 1 ≠ (freshPred 10).ctxF.toNat :=
  ⟨by decide +kernel, mixingHashes_inRange .standard le_rfl, by decide +kernel, by decide +kernel, by decide +kernel⟩

theorem witness_DfcmUpdateWritesDeltaContextAndLast :
    Memory.wf (freshPred 10).td ∧ 1 ≠ (freshPred 10).ctxD.toNat ∧ (freshPred 10).lastD.toNat ≤ (0 : Word).toNat
    ∧ ¬({ freshPred 10 with lastD := one }).lastD.toNat ≤ (0 : Word).toNat := by decide +kernel

theorem witness_DefaultHashesAreTheSpecs : State.reset.build.mixing = .standard ∧
    ∀ lsz ∈ [(1 : BitVec 6), 32], 1 ≤ lsz.toNat ∧ lsz.toNat ≤ 32 := by decide

/-- On `fresh(10)` the DFCM context does not move on 1.0 (V-P4). -/
theorem witness_DfcmPredictionAfterUpdate :
    Memory.wf (freshPred 10).td ∧ (Predictor.updD defaultHashes one (freshPred 10)).ctxD = (freshPred 10).ctxD := by decide +kernel

theorem witness_CommandsAreIgnoredWhileBusy : ∀ i ∈ [Instr.nop, .config, .encode, .decode, .reserved47 4, .reserved8F 15],
    i.format = .cmd ∧ (encoding 2 100 []).busy = true := by decide

theorem witness_ConfigMakesAFreshInstance :
    ∀ s ∈ [idleWith 4 { HostRegs.reset with logSize := 1 }, idleWith 4 { HostRegs.reset with logSize := 16 }],
      s.busy = false ∧ 1 ≤ s.regs.logSize.toNat ∧ s.regs.logSize.toNat ≤ s.build.logSizeMax := by decide +kernel

theorem witness_ConfigRejectsAnIllegalLogSize :
    ∀ s ∈ [idleWith 4 { HostRegs.reset with logSize := 0 }, idleWith 4 { HostRegs.reset with logSize := 17 }],
      s.busy = false ∧ (s.regs.logSize.toNat = 0 ∨ s.build.logSizeMax < s.regs.logSize.toNat) := by decide +kernel

theorem witness_ReservedOpcodesRaiseIllegalCommand :
    (fresh 10).busy = false ∧ (∀ op ∈ [(4 : BitVec 4), 7], 4 ≤ op.toNat ∧ op.toNat ≤ 7)
    ∧ ∀ op ∈ [(8 : BitVec 4), 15], 8 ≤ op.toNat := by decide

theorem witness_EncodeAndDecodeNeedAnInstance : State.reset.busy = false ∧ State.reset.pred.configured = false := by decide

theorem witness_EncodeStartsUnderAnInstance : (fresh 10).busy = false ∧ (fresh 10).pred.configured = true := by decide

theorem witness_DecodeStartsUnderAnInstance : (fresh 1).busy = false ∧ (fresh 1).pred.configured = true := by decide

theorem witness_RaiseIsTheErrorEntry : (errorCode .underflow).toNat ∈ [1, 2, 3] ∧ (errorCode .illegalCommand).toNat ∉ [1, 2, 3] := by
  decide

/-- V-A2's values; the record of nine bytes just fits. -/
theorem witness_EncodeWritesAFullRecord :
    let s := encoding 2 9 [one, 0]
    let h1 := (encHalf s.hashes s.pred one).1
    let h2 := (encHalf s.hashes (encHalf s.hashes s.pred one).2 0).1
    s.seq.act = .encode ∧ s.regs.values.toNat + 2 ≤ s.seq.n.toNat ∧ s.ports.vin = one :: 0 :: []
    ∧ 1 + (h1.payload ++ h2.payload).length ≤ s.regs.capacity.toNat := by decide +kernel

theorem witness_EncodeWritesAPaddingRecord :
    let s := encoding 1 10 [one]
    s.seq.act = .encode ∧ s.regs.values.toNat + 1 = s.seq.n.toNat ∧ s.ports.vin = one :: []
    ∧ 1 + ((encHalf s.hashes s.pred one).1.payload ++ [0x00]).length ≤ s.regs.capacity.toNat := by decide +kernel

/-- One byte too few for the full record, and for the padding record. -/
theorem witness_EncodeRaisesCapacityExhausted :
    let s := encoding 2 8 [one, 0]
    let u := encoding 1 9 [one]
    let h1 := (encHalf s.hashes s.pred one).1
    s.seq.act = .encode ∧ s.ports.vin = one :: [0] ∧ [0] = (0 : Word) :: [] ∧ s.regs.values.toNat + 2 ≤ s.seq.n.toNat
    ∧ s.regs.capacity.toNat < 1 + h1.payload.length + (encHalf s.hashes (encHalf s.hashes s.pred one).2 0).1.payload.length
    ∧ u.seq.act = .encode ∧ u.ports.vin = one :: [] ∧ u.regs.values.toNat + 1 = u.seq.n.toNat
    ∧ u.regs.capacity.toNat < 2 + (encHalf u.hashes u.pred one).1.payload.length := by decide +kernel

theorem witness_EncodeWaitsForItsValues : ∀ s ∈ [encoding 3 9 [one], encoding 1 9 []],
    s.seq.act = .encode ∧ s.regs.values.toNat < s.seq.n.toNat
    ∧ s.ports.vin.length < min 2 (s.seq.n.toNat - s.regs.values.toNat) := by decide +kernel

theorem witness_CommandCompletesAtN : (encoding 0 9 []).seq.act = .encode ∧ (decoding 0 9 []).seq.act = .decode
    ∧ (encoding 0 9 []).regs.values = (encoding 0 9 []).seq.n := by decide

theorem witness_DecodeUnderflowsAtTheHeader :
    let s := decoding 2 0 []
    s.seq.act = .decode ∧ s.regs.values.toNat < s.seq.n.toNat ∧ s.regs.srcLen = 0 := by decide

/-- One byte too few for V-A2's record, and for a padding record without its terminator. -/
theorem witness_DecodeUnderflowsAtTheBody : ∀ s ∈ [decoding 2 8 (bytesA2.take 8), decoding 1 9 bytesPad],
    s.seq.act = .decode ∧ s.regs.values.toNat < s.seq.n.toNat ∧ s.ports.bin = 0x07 :: s.ports.bin.tail
    ∧ 1 ≤ s.regs.srcLen.toNat
    ∧ s.regs.srcLen.toNat - 1 < nbytes ((0x07 : Byte).extractLsb' 4 3) + nbytes ((0x07 : Byte).extractLsb' 0 3)
      + (if s.regs.values.toNat + 1 = s.seq.n.toNat then 1 else 0) := by decide +kernel

theorem witness_DecodeReadsAFullRecord :
    let s := decoding 2 9 bytesA2
    s.seq.act = .decode ∧ s.regs.values.toNat + 2 ≤ s.seq.n.toNat
    ∧ s.ports.bin = BitVec.ofNat 8 (headerNumber .fcm 0 .fcm 7) :: (bytesA2.drop 1 ++ [] ++ [])
    ∧ (bytesA2.drop 1).length = nbytes 0 ∧ ([] : List Byte).length = nbytes 7
    ∧ 1 + nbytes 0 + nbytes 7 ≤ s.regs.srcLen.toNat := by decide +kernel

/-- A synthetic slot `D7` with one byte, and a terminator that is not 0. -/
theorem witness_DecodeReadsAPaddingRecord :
    let s := decoding 1 3 [0x7E, 0xAA, 0x55, 0x11]
    s.seq.act = .decode ∧ s.regs.values.toNat + 1 = s.seq.n.toNat
    ∧ s.ports.bin = BitVec.ofNat 8 (headerNumber .fcm 7 .dfcm 6) :: ([] ++ [0xAA] ++ 0x55 :: [0x11])
    ∧ ([] : List Byte).length = nbytes 7 ∧ ([0xAA] : List Byte).length = nbytes 6
    ∧ 2 + nbytes 7 + nbytes 6 ≤ s.regs.srcLen.toNat := by decide +kernel

/-- No header; and a body one byte short, of a full and of a padding record. -/
theorem witness_DecodeWaitsForItsBytes :
    (decoding 2 1 []).ports.bin = [] ∧ ∀ s ∈ [decoding 2 9 (bytesA2.take 8), decoding 1 10 (bytesPad.take 9)],
      s.seq.act = .decode ∧ s.regs.values.toNat < s.seq.n.toNat ∧ 1 ≤ s.regs.srcLen.toNat
      ∧ s.ports.bin = 0x07 :: s.ports.bin.tail
      ∧ nbytes ((0x07 : Byte).extractLsb' 4 3) + nbytes ((0x07 : Byte).extractLsb' 0 3)
        + (if s.regs.values.toNat + 1 = s.seq.n.toNat then 1 else 0) + 1 ≤ s.regs.srcLen.toNat
      ∧ s.ports.bin.tail.length < nbytes ((0x07 : Byte).extractLsb' 4 3) + nbytes ((0x07 : Byte).extractLsb' 0 3)
        + (if s.regs.values.toNat + 1 = s.seq.n.toNat then 1 else 0) := by decide +kernel

/-- For each of the sixteen halves, a state in which its slot is a real one. -/
theorem witness_HalfDecodesOneValue : ∀ row ∈ halfRows,
    let payload : List Byte := List.replicate row.2.2 0xA5
    let s := decoding 1 8 (payload ++ [0x00])
    s.seq.act = .decode ∧ s.regs.values.toNat < s.seq.n.toNat ∧ s.ports.bin = payload ++ [0x00]
    ∧ payload.length = row.2.2 ∧ payload.length ≤ s.regs.srcLen.toNat := by decide +kernel

/-- For each of the sixteen halves, a state in which its slot is the synthetic one. -/
theorem witness_HalfInTheSyntheticSlotIsSkipped : ∀ row ∈ halfRows,
    let payload : List Byte := List.replicate row.2.2 0xA5
    let s := { decoding 1 8 (payload ++ [0x00]) with regs := { HostRegs.reset with srcLen := 8, values := 1 } }
    s.seq.act = .decode ∧ s.regs.values = s.seq.n ∧ s.ports.bin = payload ++ [0x00]
    ∧ payload.length = row.2.2 ∧ payload.length ≤ s.regs.srcLen.toNat := by decide +kernel

theorem witness_TermDiscardsOneByte :
    (decoding 1 1 [0x55]).seq.act = .decode ∧ (decoding 1 1 [0x55]).ports.bin = 0x55 :: []
    ∧ 1 ≤ (decoding 1 1 [0x55]).regs.srcLen.toNat := by decide

theorem witness_HalfAndTermFrame :
    (∃ row ∈ halfRows, row.1 = .halfD8) ∧ (∃ t, exec .halfD8 (decoding 2 9 bytesA2) = .next t)
    ∧ ∃ t, exec .term (decoding 2 9 bytesA2) = .next t := ⟨by decide, ⟨_, rfl⟩, ⟨_, rfl⟩⟩

theorem witness_ReadsAnswerTheRegister : (fresh 10).busy = false := by decide

theorem witness_WritesStoreTheWritableFields : (fresh 10).busy = false ∧ (encoding 2 9 []).busy = true := by decide

/-- `fresh(10)` with its window at 0x100. -/
def atPageOne : State := { fresh 10 with build := { State.reset.build with regBasePage := 1 } }

/-- A width, an alignment and both ends of the reserved offsets; the last address below the window and the first above. -/
theorem witness_BadAccessesGetABusError : (∀ a ∈ [(0x08, 32), (0x0C, 64), (0x48, 64), (0xFF, 64)],
    a.1 < 0x100 ∧ (a.2 ≠ 64 ∨ a.1 % 8 ≠ 0 ∨ 0x48 ≤ a.1))
    ∧ 0xFF = atPageOne.build.regBase - 1 ∧ 0xFF < atPageOne.build.regBase ∧ atPageOne.build.regBase + 0x100 ≤ 0x200 := by
  decide

theorem witness_BusyWritesAreDropped : (decoding 2 9 []).busy = true := by decide

theorem witness_CounterReadsDuringACommandShowABoundary :
    (decoding 2 9 []).busy = true ∧ (decoding 2 9 []).env.marks ≠ [] := by decide

theorem witness_IrqShowsItsLevelAfterEveryStep : ∃ t, step (fresh 10) = .next t := ⟨_, rfl⟩

/-- `fresh(10)` with one element on each port. -/
def withOneEach : State := { fresh 10 with ports := { vin := [3], bout := [1], bin := [4], vout := [2] } }

theorem witness_StreamsAreFirstInFirstOut :
    withOneEach.ports.bout = 1 :: [] ∧ withOneEach.ports.vout = 2 :: []
    ∧ withOneEach.busy = false ∧ withOneEach.ports.vin = 3 :: [] ∧ withOneEach.ports.bin = 4 :: []
    ∧ (encoding 2 9 [one]).busy = true
    ∧ (fresh 10).ports.bout = [] ∧ (fresh 10).ports.vout = [] ∧ (fresh 10).ports.vin = [] ∧ (fresh 10).ports.bin = [] := by
  decide

/-- The host drains what a failed command left (R390). -/
theorem test_discard : gives (withOneEach.outsideStep .discardVin) (fun t => t.ports.vin == [] && t.ports.bin == [4]) ∧
    gives ((encoding 2 9 [one]).outsideStep .discardVin) (fun t => t.ports.vin == [one]) := by decide +kernel

theorem witness_ResetEndsEverything : (withTurn (.outside .reset)).env.turns = .outside .reset :: []
    ∧ withOneEach.seq.act = .idle := by decide

theorem witness_ResetMidRecordCutsTheStreams :
    let s := (encoding 2 100 [one, 0]).withTurns [.outside .resetMidRecord]
    s.env.turns = .outside .resetMidRecord :: [] ∧ ∃ t, (s.withTurns []).blockStep = .next t := ⟨rfl, ⟨_, rfl⟩⟩

/-! ### Sound states -/

/-- `fresh(1)` with one slot listed. -/
def freshWithSlot (slot : Nat) (w : Word) : State := { fresh 1 with pred := { freshPred 1 with tf := [(slot, w)] } }

/-- States under an instance of log size 1 whose slot 5 is listed are sound: slot 5 is beyond the instance. -/
theorem freshWithSlot_sound (w : Word) (hw : w = 7 ∨ w = 8) : (freshWithSlot 5 w).Sound := by
  rcases hw with rfl | rfl <;>
  · refine ⟨⟨by decide, by decide, fun c hc => ?_, fun c hc => ?_, by decide, by decide, by decide, by decide⟩,
      ⟨by decide, by decide, by decide, by decide, by decide⟩, ⟨by decide, by decide, by decide, by decide⟩⟩
    · rw [List.mem_singleton.mp hc]
      decide
    · cases hc

theorem witness_StepKeepsTheMachineSound : (freshWithSlot 5 7).Sound ∧ ∃ t, step (freshWithSlot 5 7) = .next t :=
  ⟨freshWithSlot_sound 7 (.inl rfl), ⟨_, rfl⟩⟩

/-- Two sound states that differ in slot 5 alone. -/
theorem witness_UnreachableSlotsAreNeverObservable :
    (freshWithSlot 5 7).Sound ∧ (freshWithSlot 5 8).Sound ∧ SameReachable (freshWithSlot 5 7) (freshWithSlot 5 8)
    ∧ freshWithSlot 5 7 ≠ freshWithSlot 5 8 :=
  ⟨freshWithSlot_sound 7 (.inl rfl), freshWithSlot_sound 8 (.inr rfl), ⟨rfl, by decide⟩, by decide⟩

/-! ### The round trip -/

/-- ENCODE of 1.0 on `fresh(10)` ends with DONE and the bytes of its padding record, and DECODE of them meets the
hypotheses of the other side. -/
theorem witness_CommandRoundTrip :
    let e := encoding 1 100 [one]
    let d := decoding 1 10 (bytesPad ++ [0xEE])
    e.seq.act = .encode ∧ e.seq.n.toNat = [one].length ∧ e.regs.values = 0 ∧ e.regs.done = false
    ∧ e.ports.vin = [one] ++ [] ∧ e.env.turns = []
    ∧ gives (Host.Core.run Sys2Proof.core (recordCount [one].length + 1) e)
        (fun t => t.regs.done && t.ports.bout == e.ports.bout ++ bytesPad) = true
    ∧ d.seq.act = .decode ∧ d.seq.n = e.seq.n ∧ d.regs.values = 0 ∧ d.regs.bytes = 0 ∧ d.pred = e.pred
    ∧ d.build.mixing = e.build.mixing
    ∧ d.env.turns = [] ∧ d.ports.bin = bytesPad ++ [0xEE] ∧ bytesPad.length ≤ d.regs.srcLen.toNat := by decide +kernel

end Sys2Proof.Tests
end

/-! # The invariant of the machine

`State.Sound` regrouped by the part of the state each fact speaks of. A step changes few parts at a time, so every update
has one lemma per part; `irq` is set aside, since `step` settles it last (10_state.md R73). -/

namespace Sys2Proof.Machine

/-! ### The parts of the invariant -/

/-- The facts of `State.InstanceSound` about the predictor state alone. -/
structure Predictor.Sound (p : Predictor) (logSizeMax : Nat) : Prop where
  tfWf : Memory.wf p.tf
  tdWf : Memory.wf p.td
  tfWithin : Memory.Within p.tf (2 ^ logSizeMax)
  tdWithin : Memory.Within p.td (2 ^ logSizeMax)
  lszZero : p.configured = false → p.lsz = 0
  lszRange : p.configured = true → 1 ≤ p.lsz.toNat ∧ p.lsz.toNat ≤ logSizeMax
  contexts : p.configured = true → p.ctxF.toNat < 2 ^ p.lsz.toNat ∧ p.ctxD.toNat < 2 ^ p.lsz.toNat

/-- The facts of `State.StatusSound` about the registers alone. -/
structure HostRegs.FlagsSound (r : HostRegs) : Prop where
  notBoth : ¬(r.done = true ∧ r.err = true)
  errCodeZero : r.err = false ↔ r.errCode = 0
  errCodeRange : r.errCode.toNat ≤ 5

/-- The facts of `State.Sound` about a state in which a command runs. -/
structure State.RunningSound (s : State) : Prop where
  configured : s.pred.configured = true
  doneClear : s.regs.done = false
  errClear : s.regs.err = false
  inRange : s.regs.values.toNat ≤ s.seq.n.toNat
  even : s.regs.values.toNat < s.seq.n.toNat → s.regs.values.toNat % 2 = 0
  marksCurrent : s.env.marks.getLast? = some s.counters

/-- The invariant but for `irq`: what holds before the interrupt output follows. -/
structure State.SoundButIrq (s : State) : Prop where
  pred : s.pred.Sound s.build.logSizeMax
  flags : s.regs.FlagsSound
  notConfig : s.seq.act ≠ .config
  running : s.busy = true → s.RunningSound

/-- The parts and the level of `irq` make up the invariant. -/
theorem State.sound_iff (s : State) : s.Sound ↔ s.SoundButIrq ∧ s.irq = s.irqLevel := by
  constructor
  · rintro ⟨hi, hs, hq⟩
    refine ⟨⟨?_, ⟨hs.notBoth, hs.errCodeZero, hs.errCodeRange⟩, hq.actNotConfig, fun hb => ?_⟩, hs.irqShown⟩
    · exact ⟨hi.tfWf, hi.tdWf, hi.tfWithin, hi.tdWithin, hi.lszZero, hi.lszRange, hi.contexts⟩
    · exact ⟨hi.busyConfigured hb, (hs.busyClear hb).1, (hs.busyClear hb).2, hq.positionInRange hb,
        hq.positionEven hb, hq.marksCurrent hb⟩
  · rintro ⟨⟨hp, hf, hc, hr⟩, hirq⟩
    refine ⟨?_, ?_, ?_⟩
    · exact ⟨hp.tfWf, hp.tdWf, hp.tfWithin, hp.tdWithin, hp.lszZero, hp.lszRange, hp.contexts,
        fun hb => (hr hb).configured⟩
    · exact ⟨fun hb => ⟨(hr hb).doneClear, (hr hb).errClear⟩, hf.notBoth, hf.errCodeZero, hf.errCodeRange, hirq⟩
    · exact ⟨hc, fun hb => (hr hb).inRange, fun hb => (hr hb).even, fun hb => (hr hb).marksCurrent⟩

/-- Settling `irq` completes the invariant. -/
theorem State.SoundButIrq.settleIrq {s : State} (hs : s.SoundButIrq) : s.settleIrq.Sound :=
  (State.sound_iff _).mpr ⟨⟨hs.pred, hs.flags, hs.notConfig, fun hb =>
    have hr := hs.running hb
    ⟨hr.configured, hr.doneClear, hr.errClear, hr.inRange, hr.even, hr.marksCurrent⟩⟩, rfl⟩

/-- An idle state needs only its predictor state and its flags to be sound. -/
theorem State.SoundButIrq.of_idle {s : State} (hact : s.seq.act = .idle) (hp : s.pred.Sound s.build.logSizeMax)
    (hf : s.regs.FlagsSound) : s.SoundButIrq where
  pred := hp
  flags := hf
  notConfig := by simp [hact]
  running hb := absurd hact ((State.busy_iff s).mp hb)

/-! ### The predictor state -/

/-- A write inside the physical depth keeps a table inside it (R41). -/
theorem Memory.Within.write {m : Memory} {depth i : Nat} (hm : Memory.Within m depth) (hi : i < depth) (v : Word) :
    Memory.Within (Memory.write m i v) depth := by
  intro d hd
  rcases Memory.mem_write_index hd with h | ⟨w, hw⟩
  · exact h ▸ hi
  · exact hm (d.1, w) hw

theorem Memory.Within.clearBelow {m : Memory} {depth : Nat} (hm : Memory.Within m depth) (bound : Nat) :
    Memory.Within (Memory.clearBelow m bound) depth := fun d hd => hm d (Memory.mem_of_mem_clearBelow hd)

/-- Observing a value keeps a configured predictor sound, whatever the mixing functions in range (R182, R190). -/
theorem Predictor.Sound.observe {p : Predictor} {n : Nat} {H : Config.Hashes} (hp : p.Sound n) (hH : H.InRange n)
    (hc : p.configured = true) (a : Word) : (p.observe H a).Sound n := by
  obtain ⟨hlsz1, hlszn⟩ := hp.lszRange hc
  obtain ⟨hctxF, hctxD⟩ := hp.contexts hc
  have hdepth : 2 ^ p.lsz.toNat ≤ 2 ^ n := Nat.pow_le_pow_right (by decide) hlszn
  obtain ⟨hwfF, hwfD⟩ := Predictor.observe_wf H a hp.tfWf hp.tdWf
  exact {
    tfWf := hwfF
    tdWf := hwfD
    tfWithin := hp.tfWithin.write (hctxF.trans_le hdepth) _
    tdWithin := hp.tdWithin.write (hctxD.trans_le hdepth) _
    lszZero := hp.lszZero
    lszRange := hp.lszRange
    contexts := fun _ => ⟨(hH _ _ _ hlsz1 hlszn hctxF).1, (hH _ _ _ hlsz1 hlszn hctxD).2⟩ }

/-- A fresh predictor state of a legal log size is sound (R303). -/
theorem Predictor.Sound.fresh {p : Predictor} {n : Nat} (hp : p.Sound n) {lsz : BitVec 6} (h1 : 1 ≤ lsz.toNat)
    (hn : lsz.toNat ≤ n) : (p.fresh lsz).Sound n where
  tfWf := Memory.clearBelow_wf hp.tfWf _
  tdWf := Memory.clearBelow_wf hp.tdWf _
  tfWithin := hp.tfWithin.clearBelow _
  tdWithin := hp.tdWithin.clearBelow _
  lszZero := by simp
  lszRange _ := ⟨h1, hn⟩
  contexts _ := by simp

/-- Without a configuration the tables are all that is left to be sound. -/
theorem Predictor.Sound.of_unconfigured {p q : Predictor} {n : Nat} (hp : p.Sound n) (htf : q.tf = p.tf)
    (htd : q.td = p.td) (hlsz : q.lsz = 0) (hc : q.configured = false) : q.Sound n where
  tfWf := htf ▸ hp.tfWf
  tdWf := htd ▸ hp.tdWf
  tfWithin := htf ▸ hp.tfWithin
  tdWithin := htd ▸ hp.tdWithin
  lszZero _ := hlsz
  lszRange h := by simp [hc] at h
  contexts h := by simp [hc] at h

/-- An error ends the configuration or leaves it (R340). -/
theorem Predictor.Sound.raise {s : State} {n : Nat} (hp : s.pred.Sound n) (e : BlockError) :
    (s.raise e).pred.Sound n := by
  rw [State.raise_pred]
  split
  · exact hp.of_unconfigured rfl rfl rfl rfl
  · exact hp

/-! ### The flags -/

theorem HostRegs.reset_flagsSound : HostRegs.reset.FlagsSound := ⟨by decide, by decide, by decide⟩

/-- The prologue clears all flags (R302). -/
theorem HostRegs.clearFlags_flagsSound (r : HostRegs) (op : BitVec 4) : (r.clearFlags op).FlagsSound :=
  ⟨by simp, by simp, by simp⟩

/-- Every error has a code of its own in 1..5 (R330). -/
theorem errorCode_range (e : BlockError) : errorCode e ≠ 0 ∧ (errorCode e).toNat ≤ 5 := by
  cases e <;> decide

theorem HostRegs.setError_flagsSound {r : HostRegs} (hdone : r.done = false) (e : BlockError) :
    (r.setError e).FlagsSound where
  notBoth := by simp [hdone]
  errCodeZero := by simpa using (errorCode_range e).1
  errCodeRange := (errorCode_range e).2

/-- Setting DONE where ERR is 0 (R246). -/
theorem HostRegs.FlagsSound.setDone {r : HostRegs} (hr : r.FlagsSound) (herr : r.err = false) :
    HostRegs.FlagsSound { r with done := true } where
  notBoth := by simp [herr]
  errCodeZero := hr.errCodeZero
  errCodeRange := hr.errCodeRange

/-- Write-1-to-clear clears ERR and ERRCODE together (R309). -/
theorem HostRegs.FlagsSound.writeOneToClear {r : HostRegs} (hr : r.FlagsSound) (w : Word) :
    (r.writeOneToClear w).FlagsSound := by
  obtain ⟨hboth, hzero, hrange⟩ := hr
  have hdone := HostRegs.writeOneToClear_done r w
  have herr := HostRegs.writeOneToClear_err r w
  have hcode := HostRegs.writeOneToClear_errCode r w
  refine ⟨fun h => hboth ?_, ?_, ?_⟩
  · rw [hdone, herr, Bool.and_eq_true, Bool.and_eq_true] at h
    exact ⟨h.1.1, h.2.1⟩
  all_goals cases hw : w.getLsbD 2 <;> rw [hw] at herr hcode
  · rw [herr, hcode]
    simpa using hzero
  · rw [herr, hcode]
    simp
  · exact hcode ▸ hrange
  · exact hcode ▸ Nat.zero_le 5

/-- The flag facts depend on the three flag fields alone. -/
theorem HostRegs.FlagsSound.congr {r r' : HostRegs} (hr : r.FlagsSound) (hdone : r'.done = r.done)
    (herr : r'.err = r.err) (hcode : r'.errCode = r.errCode) : r'.FlagsSound :=
  ⟨by simpa [hdone, herr] using hr.notBoth, by simpa [herr, hcode] using hr.errCodeZero,
    by simpa [hcode] using hr.errCodeRange⟩

/-! ### Inside a command

From its prologue to its end a command has a sound predictor state and clear flags; each way to go on or to end leaves a
sound state. -/

/-- What holds inside a command. -/
structure State.MidCommand (s : State) : Prop where
  pred : s.pred.Sound s.build.logSizeMax
  doneClear : s.regs.done = false
  errClear : s.regs.err = false
  errCodeClear : s.regs.errCode = 0

namespace State.MidCommand

variable {s : State}

theorem flags (h : s.MidCommand) : s.regs.FlagsSound :=
  ⟨by simp [h.doneClear], by simp [h.errClear, h.errCodeClear], by simp [h.errCodeClear]⟩

/-- The prologue clears the flags (R302). -/
theorem of_prologue (hp : s.pred.Sound s.build.logSizeMax) (op : BitVec 4) : (s.prologue op).MidCommand :=
  ⟨hp, rfl, rfl, rfl⟩

/-- A running command is inside a command. -/
theorem of_running (hs : s.SoundButIrq) (hr : s.RunningSound) : s.MidCommand :=
  ⟨hs.pred, hr.doneClear, hr.errClear, hs.flags.errCodeZero.mp hr.errClear⟩

/-- An error leaves a sound idle state (R340). -/
theorem raise (h : s.MidCommand) (e : BlockError) : (s.raise e).SoundButIrq :=
  .of_idle rfl (h.pred.raise e) (HostRegs.setError_flagsSound h.doneClear e)

/-- Completion leaves a sound idle state (R246, R278, R303). -/
theorem complete (h : s.MidCommand) : s.complete.SoundButIrq :=
  .of_idle rfl h.pred (h.flags.setDone h.errClear)

/-- CONFIG ends in a sound idle state, configured or not (R303, R304). -/
theorem configStep (h : s.MidCommand) : s.configStep.SoundButIrq := by
  rcases s.configStep_cases with ⟨-, e⟩ | ⟨h1, hmax, e⟩ <;> rw [e]
  · exact h.raise _
  · exact complete ⟨h.pred.fresh h1 hmax, h.doneClear, h.errClear, h.errCodeClear⟩

/-- ENCODE and DECODE start at position 0, which is their first record boundary (R240, R270, R389). -/
theorem start (h : s.MidCommand) (hc : s.pred.configured = true) {act : Act} (hact : act ≠ .config) :
    (s.start act).SoundButIrq where
  pred := h.pred
  flags := h.flags.congr rfl rfl rfl
  notConfig := hact
  running _ := ⟨hc, h.doneClear, h.errClear, by simp, by simp, rfl⟩

theorem startUnderInstance (h : s.MidCommand) (act : Act) (hact : act ≠ .config) :
    (s.startUnderInstance act).SoundButIrq := by
  rcases s.startUnderInstance_cases act with ⟨hc, e⟩ | ⟨-, e⟩ <;> rw [e]
  · exact h.start hc hact
  · exact h.raise _

/-- A record ends at a boundary, whose position is even or N (R70, R389). -/
theorem mark (h : s.MidCommand) (hc : s.pred.configured = true) (hact : s.seq.act ≠ .config)
    (hrange : s.regs.values.toNat ≤ s.seq.n.toNat)
    (heven : s.regs.values.toNat < s.seq.n.toNat → s.regs.values.toNat % 2 = 0) : s.mark.SoundButIrq where
  pred := h.pred
  flags := h.flags
  notConfig := hact
  running _ := ⟨hc, h.doneClear, h.errClear, hrange, heven, List.getLast?_concat⟩

/-- A record step of ENCODE ends in an error or at a boundary `nvals` values on (R244, R245). -/
theorem emitRecord (h : s.MidCommand) (hc : s.pred.configured = true) (hact : s.seq.act ≠ .config)
    (record : List Byte) {nvals : Nat} (hrange : s.regs.values.toNat + nvals ≤ s.seq.n.toNat)
    (heven : s.regs.values.toNat + nvals < s.seq.n.toNat → (s.regs.values.toNat + nvals) % 2 = 0) :
    (s.emitRecord record nvals).SoundButIrq := by
  have hvalues : (s.regs.values + BitVec.ofNat 64 nvals).toNat = s.regs.values.toNat + nvals := by
    have := s.seq.n.isLt
    rw [BitVec.toNat_add, BitVec.toNat_ofNat]
    omega
  rcases s.emitRecord_cases record nvals with ⟨-, e⟩ | ⟨-, e⟩ <;> rw [e]
  · exact h.raise _
  · refine mark ⟨h.pred, h.doneClear, h.errClear, h.errCodeClear⟩ hc hact ?_ ?_
    · exact hvalues ▸ hrange
    · exact hvalues ▸ heven

/-- A new sound predictor state and other ports do not end it. -/
theorem withPredPorts (h : s.MidCommand) {p : Predictor} (hp : p.Sound s.build.logSizeMax) (ports : Ports) :
    State.MidCommand { s with pred := p, ports := ports } := ⟨hp, h.doneClear, h.errClear, h.errCodeClear⟩

/-- Bytes popped from BIN do not end it. -/
theorem takeBin (h : s.MidCommand) (k : Nat) : (s.takeBin k).MidCommand :=
  ⟨h.pred, h.doneClear, h.errClear, h.errCodeClear⟩

/-- A decoded value is observed by the configured engines (R223). -/
theorem afterRealHalf (h : s.MidCommand) (hc : s.pred.configured = true) (e : Engine) (c : BitVec 3) :
    (s.afterRealHalf e c).MidCommand :=
  ⟨h.pred.observe s.hashes_inRange hc _, h.doneClear, h.errClear, h.errCodeClear⟩

end State.MidCommand

/-- While the block runs ENCODE or DECODE the facts about a running command hold. -/
theorem State.SoundButIrq.running_of_act {s : State} (hs : s.SoundButIrq) (hact : s.seq.act ≠ .idle) :
    s.RunningSound := hs.running ((State.busy_iff s).mpr hact)

/-! ### Command writes -/

/-- Acceptance keeps the invariant if the command gives it. -/
theorem State.SoundButIrq.accept {s : State} (hs : s.SoundButIrq) {run : State → State}
    (hrun : (run s).SoundButIrq) : (s.accept run).SoundButIrq := by
  rcases s.accept_cases run with ⟨-, e⟩ | ⟨-, e⟩ <;> rw [e]
  · exact hs
  · exact hrun

/-- A command word runs one of the command rows, a reserved opcode of either row the same way (R142, R305). -/
theorem exec_decodeOp_cases (op : BitVec 4) (s : State) :
    exec (decodeOp op) s = execNop s ∨ exec (decodeOp op) s = execConfig s ∨ exec (decodeOp op) s = execEncode s
    ∨ exec (decodeOp op) s = execDecode s
    ∨ exec (decodeOp op) s = .next (s.accept fun s => s.illegalCommand op) := by
  unfold decodeOp
  split <;> simp [exec, execReserved47, execReserved8F]

/-- A command write keeps the invariant: whatever the command, its prologue clears the flags first (R302). -/
theorem exec_decodeOp_soundButIrq {s t : State} (hs : s.SoundButIrq) (op : BitVec 4)
    (h : exec (decodeOp op) s = .next t) : t.SoundButIrq := by
  have hmid := State.MidCommand.of_prologue hs.pred
  rcases exec_decodeOp_cases op s with e | e | e | e | e <;> rw [e] at h <;> obtain rfl := Host.Outcome.next.inj h
  · exact hs.accept hs
  · exact hs.accept (State.MidCommand.configStep ⟨hs.pred, rfl, rfl, rfl⟩)
  · exact hs.accept ((hmid 2#4).startUnderInstance .encode (by decide))
  · exact hs.accept ((hmid 3#4).startUnderInstance .decode (by decide))
  · exact hs.accept ((hmid op).raise .illegalCommand)

/-! ### ENCODE's steps -/

/-- A step of ENCODE keeps the invariant. -/
theorem State.SoundButIrq.encodeStep {s : State} (hs : s.SoundButIrq) (hact : s.seq.act = .encode) :
    s.encodeStep.SoundButIrq := by
  have hr := hs.running_of_act (by simp [hact])
  have hmid := MidCommand.of_running hs hr
  have hobs := fun a => hs.pred.observe s.hashes_inRange hr.configured a
  rcases s.encodeStep_cases with ⟨-, e⟩ | ⟨a1, a2, rest, hn, -, e⟩ | ⟨a1, rest, hn, -, e⟩ | ⟨-, -, e⟩ <;> rw [e]
  · exact hmid.complete
  · have heven := hr.even (by omega)
    have hobs2 := (hobs a1).observe s.hashes_inRange hr.configured a2
    exact (hmid.withPredPorts hobs2 { s.ports with vin := rest }).emitRecord
      hr.configured hs.notConfig _ hn fun _ => by simpa using heven
  · exact (hmid.withPredPorts (hobs a1) { s.ports with vin := rest }).emitRecord
      hr.configured hs.notConfig _ hn.le fun hlt => absurd hn hlt.ne
  · exact hs

/-! ### DECODE's steps -/

/-- Popping `k` bytes lowers SRC_LEN by `k` where it holds as many (R55). -/
theorem State.takeBin_srcLen_toNat {s : State} {k : Nat} (h : k ≤ s.regs.srcLen.toNat) :
    (s.takeBin k).regs.srcLen.toNat = s.regs.srcLen.toNat - k := by
  have := s.regs.srcLen.isLt
  rw [State.takeBin_regs, BitVec.toNat_sub, BitVec.toNat_ofNat]
  omega

/-- What a real half does to the position, SRC_LEN and BIN (R223, R275). -/
theorem State.afterRealHalf_progress {s : State} (e : Engine) (c : BitVec 3) (hlen : nbytes c ≤ s.regs.srcLen.toNat)
    (hv : s.regs.values.toNat < s.seq.n.toNat) :
    (s.afterRealHalf e c).regs.values.toNat = s.regs.values.toNat + 1
    ∧ (s.afterRealHalf e c).regs.srcLen.toNat = s.regs.srcLen.toNat - nbytes c
    ∧ (s.afterRealHalf e c).ports.bin.length = s.ports.bin.length - nbytes c
    ∧ (s.afterRealHalf e c).seq = s.seq := by
  refine ⟨?_, takeBin_srcLen_toNat hlen, List.length_drop, rfl⟩
  have := s.seq.n.isLt
  change (s.regs.values + 1#64).toNat = _
  rw [BitVec.toNat_add, BitVec.toNat_ofNat]
  omega

/-- A full record whose bytes are all there decodes two real values (R271, R277). -/
theorem runRecord_full (s : State) {h : Byte} (hact : s.seq.act = .decode)
    (hlen : bodyLength h false ≤ s.regs.srcLen.toNat) (hbin : bodyLength h false ≤ s.ports.bin.length)
    (hn : s.regs.values.toNat + 2 ≤ s.seq.n.toNat) :
    ∃ e1 e2, runRecord h false s =
      .next ((s.afterRealHalf e1 (headerCode1 h)).afterRealHalf e2 (headerCode2 h)).mark := by
  simp only [bodyLength, Bool.false_eq_true, if_false] at hlen hbin
  obtain ⟨hv1, hl1, hb1, hseq⟩ := s.afterRealHalf_progress (nibbleEngine (h.extractLsb' 4 4)) (headerCode1 h)
    (by omega) (by omega)
  refine ⟨nibbleEngine (h.extractLsb' 4 4), nibbleEngine (h.extractLsb' 0 4), ?_⟩
  rw [runRecord_eq, s.runHalf_real _ hact (by omega) (by omega) (by omega),
    State.runHalf_real _ (hseq ▸ hact) (by omega) (by omega) (by rw [hseq]; omega)]
  rfl

/-- A padding record whose bytes are all there decodes one real value and discards the synthetic payload and the
terminator (R276, R279). -/
theorem runRecord_padding (s : State) {h : Byte} (hact : s.seq.act = .decode)
    (hlen : bodyLength h true ≤ s.regs.srcLen.toNat) (hbin : bodyLength h true ≤ s.ports.bin.length)
    (hn : s.regs.values.toNat + 1 = s.seq.n.toNat) :
    ∃ e, runRecord h true s =
      .next (((s.afterRealHalf e (headerCode1 h)).takeBin (nbytes (headerCode2 h))).takeBin 1).mark := by
  simp only [bodyLength, if_true] at hlen hbin
  obtain ⟨hv1, hl1, hb1, hseq⟩ := s.afterRealHalf_progress (nibbleEngine (h.extractLsb' 4 4)) (headerCode1 h)
    (by omega) (by omega)
  refine ⟨nibbleEngine (h.extractLsb' 4 4), ?_⟩
  rw [runRecord_eq, State.runHalf_real _ hact (by omega) (by omega) (by omega),
    State.runHalf_synthetic _ (hseq ▸ hact) (by omega) (by omega) (by rw [hseq]; omega)]
  simp only [if_true]
  rw [State.parse_run _ (hseq ▸ hact) (by rw [State.takeBin_srcLen_toNat] <;> omega) (by simp; omega)]

/-- A record whose bytes are all there ends in a sound state. -/
theorem State.SoundButIrq.runRecord {s t : State} {h : Byte} (hs : s.SoundButIrq) (hact : s.seq.act = .decode)
    (hv : s.regs.values.toNat < s.seq.n.toNat) (hlen : bodyLength h s.atPadding + 1 ≤ s.regs.srcLen.toNat)
    (hbin : bodyLength h s.atPadding + 1 ≤ s.ports.bin.length)
    (ht : runRecord h s.atPadding (s.takeBin 1) = .next t) : t.SoundButIrq := by
  have hr := hs.running_of_act (by simp [hact])
  have hmid := (MidCommand.of_running hs hr).takeBin 1
  have heven := hr.even hv
  have hlen' : bodyLength h s.atPadding ≤ (s.takeBin 1).regs.srcLen.toNat := by
    rw [takeBin_srcLen_toNat] <;> omega
  have hbin' : bodyLength h s.atPadding ≤ (s.takeBin 1).ports.bin.length := by
    rw [takeBin_ports, List.length_drop]
    omega
  cases hpad : s.atPadding <;> rw [hpad] at hlen' hbin' ht
  case false =>
    have hn : s.regs.values.toNat + 2 ≤ s.seq.n.toNat := by
      simp [State.atPadding] at hpad
      omega
    obtain ⟨e1, e2, e⟩ := runRecord_full (s.takeBin 1) hact hlen' hbin' hn
    obtain rfl := Host.Outcome.next.inj (e.symm.trans ht)
    have hvalues : (s.regs.values + 1#64 + 1#64).toNat = s.regs.values.toNat + 2 := by bv_omega
    exact ((hmid.afterRealHalf hr.configured e1 _).afterRealHalf hr.configured e2 _).mark hr.configured
      hs.notConfig (hvalues.trans_le hn) fun _ => (congrArg (· % 2) hvalues).trans (by omega)
  case true =>
    have hn : s.regs.values.toNat + 1 = s.seq.n.toNat := by simpa [State.atPadding] using hpad
    obtain ⟨e1, e⟩ := runRecord_padding (s.takeBin 1) hact hlen' hbin' hn
    obtain rfl := Host.Outcome.next.inj (e.symm.trans ht)
    have hvalues : (s.regs.values + 1#64).toNat = s.seq.n.toNat := by bv_omega
    exact (((hmid.afterRealHalf hr.configured e1 _).takeBin _).takeBin 1).mark hr.configured
      hs.notConfig hvalues.le fun hlt => absurd hvalues hlt.ne

/-- A step of DECODE keeps the invariant. -/
theorem State.SoundButIrq.decodeStep {s t : State} (hs : s.SoundButIrq) (hact : s.seq.act = .decode)
    (ht : s.decodeStep = .next t) : t.SoundButIrq := by
  have hr := hs.running_of_act (by simp [hact])
  have hmid := MidCommand.of_running hs hr
  rcases s.decodeStep_cases with
    ⟨-, e⟩ | ⟨-, -, e⟩ | ⟨h, body, -, -, -, -, e⟩ | ⟨-, -, e⟩ | ⟨h, body, hv, hbin, hlen, hbody, e⟩ <;> rw [e] at ht
  case inr.inr.inr.inr => exact hs.runRecord hact hv hlen (by simpa [hbin] using hbody) ht
  all_goals obtain rfl := Host.Outcome.next.inj ht
  · exact hmid.complete
  · exact hmid.raise _
  · exact (hmid.takeBin 1).raise _
  · exact hs

/-- The block's own step keeps the invariant; ACT = CONFIG is never met (R303). -/
theorem State.SoundButIrq.blockStep {s t : State} (hs : s.SoundButIrq) (ht : s.blockStep = .next t) :
    t.SoundButIrq := by
  unfold State.blockStep at ht
  split at ht
  next => exact Host.Outcome.next.inj ht ▸ hs
  next hact => exact absurd hact hs.notConfig
  next hact => exact Host.Outcome.next.inj ht ▸ hs.encodeStep hact
  next hact => exact hs.decodeStep hact ht

/-! ### The world outside

No host access moves the position, and none changes a counter while a command runs. -/

/-- The model's own fields matter to the invariant only through the newest record boundary. -/
theorem State.SoundButIrq.withEnv {s : State} (hs : s.SoundButIrq) (env : Env)
    (hmarks : s.busy = true → env.marks.getLast? = s.env.marks.getLast?) :
    State.SoundButIrq { s with env := env } where
  pred := hs.pred
  flags := hs.flags
  notConfig := hs.notConfig
  running hb :=
    have hr := hs.running hb
    ⟨hr.configured, hr.doneClear, hr.errClear, hr.inRange, hr.even, (hmarks hb).trans hr.marksCurrent⟩

theorem State.SoundButIrq.answer {s : State} (hs : s.SoundButIrq) (r : BusResponse) : (s.answer r).SoundButIrq :=
  hs.withEnv _ fun _ => rfl

theorem State.SoundButIrq.withTurns {s : State} (hs : s.SoundButIrq) (ts : List Turn) :
    (s.withTurns ts).SoundButIrq := hs.withEnv _ fun _ => rfl

/-- The streams do not matter to it. -/
theorem State.SoundButIrq.withPorts {s : State} (hs : s.SoundButIrq) (ports : Ports) :
    State.SoundButIrq { s with ports := ports } :=
  ⟨hs.pred, hs.flags, hs.notConfig, fun hb =>
    have hr := hs.running hb
    ⟨hr.configured, hr.doneClear, hr.errClear, hr.inRange, hr.even, hr.marksCurrent⟩⟩

theorem State.SoundButIrq.discard {s : State} (hs : s.SoundButIrq) (ports : Ports) :
    (s.discard ports).SoundButIrq := by
  rcases s.discard_cases ports with ⟨-, e⟩ | ⟨-, e⟩ <;> rw [e]
  · exact hs
  · exact hs.withPorts ports

/-- A counter read drops older boundaries only, never the newest (R389). -/
theorem State.SoundButIrq.shownCounters {s : State} (hs : s.SoundButIrq) : s.shownCounters.2.SoundButIrq := by
  unfold State.shownCounters
  split
  next hb =>
    refine hs.withEnv _ fun _ => ?_
    have hmarks : s.env.marks ≠ [] := fun h => by simpa [h] using (hs.running hb).marksCurrent
    have hk : s.choice 0 s.env.marks.length < s.env.marks.length :=
      Nat.mod_lt _ (List.length_pos_of_ne_nil hmarks)
    simp [List.getLast?_drop, hk]
  next => exact hs

/-- A register read keeps the invariant (R307). -/
theorem State.SoundButIrq.readReg {s : State} (hs : s.SoundButIrq) (r : Reg) : (s.readReg r).SoundButIrq := by
  cases r
  case capacity | srcLen | bytes | values => exact hs.shownCounters.answer _
  case cmd | cfg | count | status | irqEn => exact hs.answer _

/-- Registers that keep the counters and leave clear flags clear can be replaced at any time. -/
theorem State.SoundButIrq.withRegs {s : State} (hs : s.SoundButIrq) {regs : HostRegs} (hf : regs.FlagsSound)
    (hdone : s.regs.done = false → regs.done = false) (herr : s.regs.err = false → regs.err = false)
    (hcounters : State.counters { s with regs := regs } = s.counters) : State.SoundButIrq { s with regs := regs } where
  pred := hs.pred
  flags := hf
  notConfig := hs.notConfig
  running hb :=
    have hr := hs.running hb
    have hvalues : regs.values = s.regs.values := congrArg Counters.values hcounters
    ⟨hr.configured, hdone hr.doneClear, herr hr.errClear, hvalues ▸ hr.inRange, hvalues ▸ hr.even,
      hr.marksCurrent.trans (congrArg some hcounters.symm)⟩

/-- A register stored while idle only, with the flags kept (R308, R311). -/
theorem State.SoundButIrq.whenIdle {s : State} (hs : s.SoundButIrq) {regs : HostRegs} (hf : regs.FlagsSound) :
    (s.whenIdle regs).SoundButIrq := by
  unfold State.whenIdle
  split
  next => exact hs
  next hb => exact .of_idle ((State.not_busy_iff s).mp (by simpa using hb)) hs.pred hf

/-- A register write keeps the invariant (R308, R309). -/
theorem State.SoundButIrq.writeReg {s t : State} (hs : s.SoundButIrq) (r : Reg) (w : Word)
    (ht : s.writeReg r w = .next t) : t.SoundButIrq := by
  cases r
  case cmd => exact exec_decodeOp_soundButIrq hs _ ht
  all_goals obtain rfl := Host.Outcome.next.inj ht
  case cfg | count | capacity | srcLen => exact hs.whenIdle (hs.flags.congr rfl rfl rfl)
  case status => exact hs.withRegs (hs.flags.writeOneToClear w) (by simp_all) (by simp_all) rfl
  case bytes | values => exact hs
  case irqEn => exact hs.withRegs (hs.flags.congr rfl rfl rfl) id id rfl

/-- Reset gives a sound state from any sound tables, whatever is left on the streams (R380, R382). -/
theorem State.SoundButIrq.resetBlock {s : State} (hs : s.SoundButIrq) : s.resetBlock.SoundButIrq :=
  .of_idle rfl (hs.pred.of_unconfigured rfl rfl rfl rfl) HostRegs.reset_flagsSound

/-- Reset during a record step cuts the streams and is a reset between steps otherwise (R383). -/
theorem State.SoundButIrq.resetMidRecord {s t : State} (hs : s.SoundButIrq) (ht : s.resetMidRecord = .next t) :
    t.SoundButIrq := by
  obtain ⟨u, -, hu⟩ := andThen_eq_next.mp ht
  obtain rfl := Host.Outcome.next.inj hu
  exact (hs.resetBlock.withPorts (s.cutPorts u)).withEnv _ fun _ => rfl

/-- Every action of the world outside keeps the invariant. -/
theorem State.SoundButIrq.outsideStep {s t : State} (hs : s.SoundButIrq) (act : OutsideAction)
    (ht : s.outsideStep act = .next t) : t.SoundButIrq := by
  cases act
  case busRead addr width =>
    simp only [State.outsideStep] at ht
    split at ht <;> obtain rfl := Host.Outcome.next.inj ht
    · exact hs
    · exact hs.answer _
    · exact hs.readReg _
  case busWrite addr width w =>
    simp only [State.outsideStep] at ht
    split at ht
    · exact Host.Outcome.next.inj ht ▸ hs
    · exact Host.Outcome.next.inj ht ▸ hs.answer _
    · exact (hs.answer _).writeReg _ w ht
  case resetMidRecord => exact hs.resetMidRecord ht
  all_goals obtain rfl := Host.Outcome.next.inj ht
  case pushVin | pushBin | popBout | popVout => exact hs.withPorts _
  case discardVin | discardBin => exact hs.discard _
  case reset => exact hs.resetBlock

/-! ### The step -/

/-- A step from a sound state gives a sound state: whoever moves keeps all but `irq`, which follows. -/
theorem step_sound {s t : State} (hs : s.Sound) (h : step s = .next t) : t.Sound := by
  have hturn : s.atTurn.SoundButIrq := ((State.sound_iff s).mp hs).1.withTurns _
  rcases step_cases h with ⟨u, hu, rfl⟩ | ⟨act, u, hu, rfl⟩
  · exact (hturn.blockStep hu).settleIrq
  · exact (hturn.outsideStep act hu).settleIrq

/-- The state after reset is sound: idle, unconfigured, every flag clear. -/
theorem reset_sound : State.reset.Sound := by
  refine (State.sound_iff _).mpr ⟨.of_idle rfl ⟨?_, ?_, ?_, ?_, ?_, ?_, ?_⟩ HostRegs.reset_flagsSound, rfl⟩
  all_goals simp [State.reset, Memory.wf, Memory.Within]

/-! ### Discards -/

/-- A discard that takes nothing changes nothing. -/
theorem State.discard_ports (s : State) : s.discard s.ports = s := by
  rcases s.discard_cases s.ports with ⟨-, e⟩ | ⟨-, e⟩ <;> rw [e]

theorem State.discard_idle {s : State} (hb : s.busy = false) (ports : Ports) :
    s.discard ports = { s with ports := ports } := by simp [State.discard, hb]

theorem State.discard_busy {s : State} (hb : s.busy = true) (ports : Ports) : s.discard ports = s := by
  simp [State.discard, hb]

/-! ### Flags in a register -/

/-- A flag placed below a register's other fields is bit 0. -/
theorem getLsbD_append_flagBit_zero {n : Nat} (x : BitVec n) (b : Bool) : (x ++ flagBit b).getLsbD 0 = b := by
  rw [BitVec.getLsbD_append, if_pos (by decide), flagBit, BitVec.getLsbD_ofBool]
  rfl

/-- The fields above a flag stand one bit higher. -/
theorem getLsbD_append_flagBit_succ {n : Nat} (x : BitVec n) (b : Bool) (i : Nat) :
    (x ++ flagBit b).getLsbD (i + 1) = x.getLsbD i := by
  simp [BitVec.getLsbD_append]

end Sys2Proof.Machine

/-! # The obligations -/

namespace Sys2Proof.Proofs

open Sys2Proof.Machine Sys2Proof.Stated

/-- Settles O57: the parts of the invariant, each kept by whoever moves. -/
theorem stepKeepsTheMachineSound : Obligations.StepKeepsTheMachineSound := by
  unfold Obligations.StepKeepsTheMachineSound
  exact fun _ _ hs h => step_sound hs h

/-- Settles O58: an idle state with empty tables and clear flags. -/
theorem resetIsSound : Obligations.ResetIsSound := by
  unfold Obligations.ResetIsSound
  exact reset_sound

/-- Settles O52: a step ends by settling `irq`. -/
theorem irqShowsItsLevelAfterEveryStep : Obligations.IrqShowsItsLevelAfterEveryStep := by
  unfold Obligations.IrqShowsItsLevelAfterEveryStep
  refine ⟨fun s t h => ?_, rfl⟩
  rcases step_cases h with ⟨u, -, rfl⟩ | ⟨act, u, -, rfl⟩ <;> rfl

/-- Settles O53: one action of the host at a time, at a port that holds an element and at an empty one. -/
theorem streamsAreFirstInFirstOut : Obligations.StreamsAreFirstInFirstOut := by
  unfold Obligations.StreamsAreFirstInFirstOut
  intro s v b
  refine ⟨rfl, rfl, fun rest h => ?_, fun rest h => ?_, fun hb rest h => ?_, fun hb rest h => ?_, fun hb => ?_,
    fun h => ?_, fun h => ?_, fun h => ?_, fun h => ?_⟩
  · simp [State.outsideStep, h]
  · simp [State.outsideStep, h]
  · simp [State.outsideStep, h, State.discard_idle hb]
  · simp [State.outsideStep, h, State.discard_idle hb]
  · simp [State.outsideStep, State.discard_busy hb]
  · rw [State.outsideStep, h, List.drop_nil, ← h]
  · rw [State.outsideStep, h, List.drop_nil, ← h]
  · rw [State.outsideStep, h, List.drop_nil, ← h, State.discard_ports]
  · rw [State.outsideStep, h, List.drop_nil, ← h, State.discard_ports]

/-- Settles O54, by evaluating the reset state. -/
theorem resetValuesAreTheSpecs : Obligations.ResetValuesAreTheSpecs := by
  unfold Obligations.ResetValuesAreTheSpecs
  decide

/-- Settles O45: each field is found by going down the concatenation to where it stands. -/
theorem statusBitsAreTheSpecs : Obligations.StatusBitsAreTheSpecs := by
  unfold Obligations.StatusBitsAreTheSpecs
  intro s
  unfold State.statusWord
  refine ⟨?busy, ?done, ?err, ?configured, ?fields⟩
  case busy => rw [getLsbD_append_flagBit_zero, State.busy]
  case done => rw [getLsbD_append_flagBit_succ, getLsbD_append_flagBit_zero]
  case err => rw [getLsbD_append_flagBit_succ, getLsbD_append_flagBit_succ, getLsbD_append_flagBit_zero]
  case configured =>
    rw [getLsbD_append_flagBit_succ, getLsbD_append_flagBit_succ, getLsbD_append_flagBit_succ,
      getLsbD_append_flagBit_zero]
  case fields =>
    simp (disch := decide) only [BitVec.extractLsb'_append_eq_of_le, BitVec.extractLsb'_append_eq_of_add_le]
    exact ⟨BitVec.extractLsb'_eq_self, BitVec.extractLsb'_eq_self, rfl, BitVec.extractLsb'_eq_self, rfl⟩

end Sys2Proof.Proofs

/-! # Turns, command writes and completion -/

namespace Sys2Proof.Machine

/-! ### Whose turn it is -/

theorem step_of_turns_nil {s : State} (h : s.env.turns = []) :
    step s = andThen s.blockStep fun t => .next t.settleIrq := by
  simp [step, State.move, h]

theorem step_of_turns_block {s : State} {ts : List Turn} (h : s.env.turns = .block :: ts) :
    step s = andThen (s.withTurns ts).blockStep fun t => .next t.settleIrq := by
  simp [step, State.move, h]

theorem step_of_turns_outside {s : State} {act : OutsideAction} {ts : List Turn}
    (h : s.env.turns = .outside act :: ts) :
    step s = andThen ((s.withTurns ts).outsideStep act) fun t => .next t.settleIrq := by
  simp [step, State.move, h]

/-! ### Writes to the window -/

/-- A legal access reaches the register at its offset, wherever the window lies (R50, R102). -/
theorem accessAt_regBase_add (b : Config.Build) {offset : Nat} {r : Reg} (hoffset : offset < 0x100)
    (hr : regAt offset = some r) : accessAt b (b.regBase + offset) 64 = .reg r := by
  have hinside : ¬(b.regBase + offset < b.regBase ∨ b.regBase + 0x100 ≤ b.regBase + offset) := by omega
  rw [accessAt, if_neg hinside, if_pos rfl, Nat.add_sub_cancel_left, hr]

/-- A legal write is answered by the bus and then acts on its register (R308). -/
theorem State.outsideStep_busWrite_reg (s : State) {offset : Nat} {r : Reg} (hoffset : offset < 0x100)
    (hr : regAt offset = some r) (w : Word) :
    s.outsideStep (.busWrite (s.build.regBase + offset) 64 w) = (s.answer .written).writeReg r w := by
  simp only [State.outsideStep, accessAt_regBase_add s.build hoffset hr]

/-- A write at REG_BASE runs the command of its word (R300). -/
theorem State.outsideStep_busWrite_cmd (s : State) (w : Word) :
    s.outsideStep (.busWrite s.build.regBase 64 w) = exec (decodeCmd w) (s.answer .written) :=
  s.outsideStep_busWrite_reg (offset := 0) (by decide) rfl w

/-- The bytes of exactly one CMD word decode to the command of the little-endian word they form (R105, R141). -/
theorem decodeCmd_wordOfBytes_of_decodeBytes {bs : List Byte} {i : Instr} (h : decodeBytes .cmd bs = .ok (i, [])) :
    decodeCmd (wordOfBytes bs) = i := by
  unfold decodeBytes at h
  split at h
  case h_1 =>
    obtain ⟨hi, rfl⟩ := Prod.mk.inj (Except.ok.inj h)
    exact hi
  all_goals contradiction

/-! ### The end of a command -/

theorem State.blockStep_of_encode {s : State} (hact : s.seq.act = .encode) : s.blockStep = .next s.encodeStep := by
  simp [State.blockStep, hact]

theorem State.blockStep_of_decode {s : State} (hact : s.seq.act = .decode) : s.blockStep = s.decodeStep := by
  simp [State.blockStep, hact]

/-- With no value left ENCODE ends, whatever is on VIN (R246). -/
theorem State.encodeStep_of_n_le_values {s : State} (hn : s.seq.n.toNat ≤ s.regs.values.toNat) :
    s.encodeStep = s.complete := if_neg hn.not_gt

/-- With no value left DECODE ends, whatever is on BIN and in SRC_LEN (R278). -/
theorem State.decodeStep_of_n_le_values {s : State} (hn : s.seq.n.toNat ≤ s.regs.values.toNat) :
    s.decodeStep = .next s.complete := if_neg hn.not_gt

/-- A command that has reached N completes (R246, R278). -/
theorem State.blockStep_of_n_le_values {s : State} (hact : s.seq.act = .encode ∨ s.seq.act = .decode)
    (hn : s.seq.n.toNat ≤ s.regs.values.toNat) : s.blockStep = .next s.complete := by
  rcases hact with hact | hact
  · rw [State.blockStep_of_encode hact, State.encodeStep_of_n_le_values hn]
  · rw [State.blockStep_of_decode hact, State.decodeStep_of_n_le_values hn]

end Sys2Proof.Machine

namespace Sys2Proof.Proofs

open Sys2Proof.Machine Sys2Proof.Stated

/-- Settles O5: one equation of the step per form of the list of turns. -/
theorem stepTakesTheNextTurn : Obligations.StepTakesTheNextTurn := by
  unfold Obligations.StepTakesTheNextTurn
  exact fun _ => ⟨step_of_turns_nil, fun _ => step_of_turns_block, fun _ _ => step_of_turns_outside⟩

/-- Settles O6: REG_BASE is the address of CMD, and eight bytes decode to the command of the word they form. -/
theorem stepRunsTheCommandWritten : Obligations.StepRunsTheCommandWritten := by
  unfold Obligations.StepRunsTheCommandWritten
  intro s ts bs i hdecode hturns
  have hwrite := (s.withTurns ts).outsideStep_busWrite_cmd (wordOfBytes bs)
  rw [State.withTurns_build, decodeCmd_wordOfBytes_of_decodeBytes hdecode] at hwrite
  rw [step_of_turns_outside hturns, hwrite]

/-- Settles O35: at N neither command has a record step left. -/
theorem commandCompletesAtN : Obligations.CommandCompletesAtN := by
  unfold Obligations.CommandCompletesAtN
  intro s hact hn
  exact State.blockStep_of_n_le_values hact (congrArg BitVec.toNat hn).ge

end Sys2Proof.Proofs

/-! # The encodings -/

namespace Sys2Proof

/-! ### Words as bytes -/

/-- A word is its low byte and, eight places up, the rest of it (R105). -/
theorem lowByte_or_shiftLeft_ushiftRight (w : Word) : (w.setWidth 8).setWidth 64 ||| ((w >>> 8) <<< 8) = w := by
  ext i hi
  by_cases h : i < 8
  · simp [h, hi]
  · have hsum : 8 + (i - 8) = i := by omega
    simp [h, hi, hsum]

/-- Bytes enough for a word give it back. -/
theorem wordOfBytes_bytesOfWord {n : Nat} {w : Word} (hw : w.toNat < 2 ^ (8 * n)) :
    wordOfBytes (bytesOfWord n w) = w := by
  induction n generalizing w with
  | zero => exact (BitVec.eq_of_toNat_eq (Nat.lt_one_iff.mp hw)).symm
  | succ n ih =>
    have hrest : (w >>> 8).toNat < 2 ^ (8 * n) := by
      rw [BitVec.toNat_ushiftRight, Nat.shiftRight_eq_div_pow]
      exact Nat.div_lt_of_lt_mul (by rwa [← Nat.pow_add, Nat.add_comm])
    rw [bytesOfWord, wordOfBytes, ih hrest, lowByte_or_shiftLeft_ushiftRight]

/-- A command is read from the eight bytes of its word. -/
theorem decodeBytes_cmd_bytesOfWord (w : Word) (rest : List Byte) :
    decodeBytes .cmd (bytesOfWord 8 w ++ rest) = .ok (decodeCmd w, rest) := by
  have hcmd : decodeBytes .cmd (bytesOfWord 8 w ++ rest) =
      .ok (decodeCmd (wordOfBytes (bytesOfWord 8 w)), rest) := rfl
  rw [hcmd, wordOfBytes_bytesOfWord w.isLt]

/-! ### Commands -/

/-- Only OP counts in a CMD word (R141). -/
@[simp] theorem decodeCmd_append (reserved : BitVec 60) (op : BitVec 4) : decodeCmd (reserved ++ op) = decodeOp op :=
  congrArg decodeOp BitVec.extractLsb'_append_eq_right

/-- The CMD word the encoder writes has OP in its low bits. -/
@[simp] theorem decodeCmd_setWidth (op : BitVec 4) : decodeCmd (op.setWidth 64) = decodeOp op := by
  rw [decodeCmd, BitVec.extractLsb'_setWidth_of_le (by decide), BitVec.extractLsb'_eq_self]

theorem decodeOp_reserved47 {op : BitVec 4} (h : 4 ≤ op.toNat ∧ op.toNat ≤ 7) : decodeOp op = .reserved47 op := by
  revert op
  decide

theorem decodeOp_reserved8F {op : BitVec 4} (h : 8 ≤ op.toNat) : decodeOp op = .reserved8F op := by
  revert op
  decide

theorem wellFormed_reserved47_iff (op : BitVec 4) :
    (Instr.reserved47 op).wellFormed = true ↔ 4 ≤ op.toNat ∧ op.toNat ≤ 7 := by
  simp only [Instr.wellFormed, beq_iff_eq]
  omega

theorem wellFormed_reserved8F_iff (op : BitVec 4) : (Instr.reserved8F op).wellFormed = true ↔ 8 ≤ op.toNat := by
  have := op.isLt
  simp only [Instr.wellFormed, beq_iff_eq]
  omega

/-- The opcode of a well-formed command selects it (R142). -/
theorem decodeOp_opBits {i : Instr} (hformat : i.format = .cmd) (hwf : i.wellFormed = true) :
    decodeOp i.opBits = i := by
  cases i
  case reserved47 op => exact decodeOp_reserved47 ((wellFormed_reserved47_iff op).mp hwf)
  case reserved8F op => exact decodeOp_reserved8F ((wellFormed_reserved8F_iff op).mp hwf)
  all_goals cases hformat <;> rfl

/-! ### Halves -/

/-- A half is the half of its own four bits (R144, R162). -/
theorem decodeHalf_opBits {i : Instr} (hformat : i.format = .slot2) : decodeHalf i.opBits = i := by
  cases i <;> cases hformat <;> rfl

/-- Every four bits are those of a half (R159). -/
theorem opBits_decodeHalf (nibble : BitVec 4) : (decodeHalf nibble).opBits = nibble := by
  revert nibble
  decide

/-- The high nibble of a header byte is slot 1 (R144). -/
@[simp] theorem decodeSlot1_append (hi lo : BitVec 4) : decodeSlot1 (hi ++ lo) = decodeHalf hi :=
  congrArg decodeHalf BitVec.extractLsb'_append_eq_left

/-- The low nibble of a header byte is slot 2 (R144). -/
@[simp] theorem decodeSlot2_append (hi lo : BitVec 4) : decodeSlot2 (hi ++ lo) = decodeHalf lo :=
  congrArg decodeHalf BitVec.extractLsb'_append_eq_right

theorem decodeSlot1_encodeHeader {i1 : Instr} (h : i1.format = .slot2) (i2 : Instr) :
    decodeSlot1 (encodeHeader i1 i2) = i1 := by
  rw [encodeHeader, decodeSlot1_append, decodeHalf_opBits h]

theorem decodeSlot2_encodeHeader (i1 : Instr) {i2 : Instr} (h : i2.format = .slot2) :
    decodeSlot2 (encodeHeader i1 i2) = i2 := by
  rw [encodeHeader, decodeSlot2_append, decodeHalf_opBits h]

/-- A byte is its two nibbles, and each nibble is a half (R159). -/
theorem encodeHeader_decodeSlots (h : Byte) : encodeHeader (decodeSlot1 h) (decodeSlot2 h) = h := by
  rw [encodeHeader, decodeSlot1, decodeSlot2, opBits_decodeHalf, opBits_decodeHalf]
  exact BitVec.extractLsb'_append_extractLsb'

/-! ### Decoding an encoding -/

theorem encode_of_cmd {i : Instr} (h : i.format = .cmd) : encode i = bytesOfWord 8 (i.opBits.setWidth 64) := by
  rw [encode, h]

theorem encode_of_slot2 {i : Instr} (h : i.format = .slot2) : encode i = [0#4 ++ i.opBits] := by
  rw [encode, h]

/-- No instruction is encoded in slot 1: the encoder writes a half in slot 2. -/
theorem format_ne_slot1 (i : Instr) : i.format ≠ .slot1 := by
  cases i <;> exact nofun

theorem eq_term_of_format {i : Instr} (h : i.format = .term) : i = .term := by
  cases i <;> cases h
  rfl

/-- Decode undoes encode, format by format. -/
theorem decodeBytes_encode {i : Instr} (hwf : i.wellFormed = true) (rest : List Byte) :
    decodeBytes i.format (encode i ++ rest) = .ok (i, rest) := by
  cases hformat : i.format
  case cmd =>
    rw [encode_of_cmd hformat, decodeBytes_cmd_bytesOfWord, decodeCmd_setWidth, decodeOp_opBits hformat hwf]
  case slot1 => exact absurd hformat (format_ne_slot1 i)
  case slot2 =>
    rw [encode_of_slot2 hformat, List.singleton_append, decodeBytes, decodeSlot2_append, decodeHalf_opBits hformat]
  case term =>
    obtain rfl := eq_term_of_format hformat
    rfl

end Sys2Proof

namespace Sys2Proof.Machine

/-! ### The code table -/

/-- The decoder's count is the encoder's, but for the two counts that share a code (R150, R151). -/
theorem inv_codeOf {z : Nat} (hz : z ≤ 8) (h4 : z ≠ 4) : inv (codeOf z) = z := by
  rcases Nat.lt_or_ge 3 z with h | h
  · have hcode : (codeOf z).toNat = z - 1 := by
      rw [codeOf, if_neg h.not_ge, BitVec.toNat_ofNat]
      omega
    rw [inv, hcode, if_neg (by omega)]
    omega
  · have hcode : (codeOf z).toNat = z := by
      rw [codeOf, if_pos h, BitVec.toNat_ofNat]
      omega
    rw [inv, hcode, if_pos h]

/-- Four leading zero bytes are coded as three (R150). -/
@[simp] theorem inv_codeOf_four : inv (codeOf 4) = 3 := rfl

/-- `n = 8 - z` for every count but 4 (R218). -/
theorem nbytes_codeOf {z : Nat} (hz : z ≤ 8) (h4 : z ≠ 4) : nbytes (codeOf z) = 8 - z := by
  rw [nbytes, inv_codeOf hz h4]

end Sys2Proof.Machine

namespace Sys2Proof.Proofs

open Sys2Proof.Machine Sys2Proof.Stated

/-- Settles O1: each format carries the bits of the instruction, and the decoder inverts those bits. -/
theorem decodeReadsBackEveryEncoding : Obligations.DecodeReadsBackEveryEncoding := by
  unfold Obligations.DecodeReadsBackEveryEncoding
  exact fun _ rest hwf => decodeBytes_encode hwf rest

/-- Settles O2: the two nibbles of a byte, and the sixteen halves of a nibble. -/
theorem headerHoldsExactlyTwoHalves : Obligations.HeaderHoldsExactlyTwoHalves := by
  unfold Obligations.HeaderHoldsExactlyTwoHalves
  refine ⟨fun i1 i2 h1 h2 => ⟨?slot1, ?slot2⟩, encodeHeader_decodeSlots⟩
  case slot1 => rw [decodeBytes, decodeSlot1_encodeHeader h1]
  case slot2 => rw [decodeBytes, decodeSlot2_encodeHeader i1 h2]

/-- Settles O3: a CMD word is decoded as its OP, and the OPs are divided as R142 says. -/
theorem commandIsSelectedByOpAlone : Obligations.CommandIsSelectedByOpAlone := by
  unfold Obligations.CommandIsSelectedByOpAlone
  intro reserved op
  simp only [decodeCmd_append, true_and]
  refine ⟨?nop, ?config, ?encode, ?decode, decodeOp_reserved47, decodeOp_reserved8F⟩
  all_goals
    rintro rfl
    rfl

/-- Settles O4, by decoding each word. -/
theorem sampleWordsDecode : Obligations.SampleWordsDecode := by
  unfold Obligations.SampleWordsDecode
  decide

/-- Settles O9: the three tables by evaluation, the rule of R218 from the inverse of the code table. -/
theorem codeTablesAreTheSpecs : Obligations.CodeTablesAreTheSpecs := by
  unfold Obligations.CodeTablesAreTheSpecs
  refine ⟨by decide, by decide, by decide, fun _ => rfl, fun z hz => ⟨inv_codeOf hz, ?inv4⟩,
    fun z hz => ⟨nbytes_codeOf hz, ?nbytes4⟩⟩
  case inv4 =>
    rintro rfl
    exact inv_codeOf_four
  case nbytes4 =>
    rintro rfl
    rw [nbytes, inv_codeOf_four]

end Sys2Proof.Proofs

/-! # The predictors -/

namespace Sys2Proof.Machine

/-! ### The engines' updates -/

/-- The slot the FCM prediction came from now holds the value (R181). -/
theorem Predictor.read_updF_tf_same {p : Predictor} (hp : Memory.wf p.tf) (H : Config.Hashes) (a : Word) :
    Memory.read (p.updF H a).tf p.ctxF.toNat = a := by
  rw [updF_tf, Memory.read_write_same hp]

/-- Every other slot of TF keeps its value (R181). -/
theorem Predictor.read_updF_tf_other (p : Predictor) (H : Config.Hashes) (a : Word) {j : Nat}
    (hj : j ≠ p.ctxF.toNat) : Memory.read (p.updF H a).tf j = Memory.read p.tf j := by
  rw [updF_tf, Memory.read_write_other _ _ hj]

/-- Where the context did not move, the FCM predicts the value it has just seen (R181). -/
theorem Predictor.predF_updF_of_ctxF_eq {p : Predictor} (hp : Memory.wf p.tf) {H : Config.Hashes} {a : Word}
    (hctx : (p.updF H a).ctxF = p.ctxF) : (p.updF H a).predF = a := by
  rw [predF, hctx, read_updF_tf_same hp]

/-- The slot the DFCM prediction came from now holds the difference (R186). -/
theorem Predictor.read_updD_td_same {p : Predictor} (hp : Memory.wf p.td) (H : Config.Hashes) (a : Word) :
    Memory.read (p.updD H a).td p.ctxD.toNat = a - p.lastD := by
  rw [updD_td, Memory.read_write_same hp]

/-- Every other slot of TD keeps its value (R186). -/
theorem Predictor.read_updD_td_other (p : Predictor) (H : Config.Hashes) (a : Word) {j : Nat}
    (hj : j ≠ p.ctxD.toNat) : Memory.read (p.updD H a).td j = Memory.read p.td j := by
  rw [updD_td, Memory.read_write_other _ _ hj]

/-- After an update the DFCM predicts from the value it has just seen (R187). -/
theorem Predictor.predD_updD (p : Predictor) (H : Config.Hashes) (a : Word) :
    (p.updD H a).predD = a + Memory.read (p.updD H a).td (p.updD H a).ctxD.toNat := by
  rw [predD, updD_lastD]

/-- Where the context did not move, the DFCM predicts the difference it has just seen once more (R187). -/
theorem Predictor.predD_updD_of_ctxD_eq {p : Predictor} (hp : Memory.wf p.td) {H : Config.Hashes} {a : Word}
    (hctx : (p.updD H a).ctxD = p.ctxD) : (p.updD H a).predD = a + (a - p.lastD) := by
  rw [predD_updD, hctx, read_updD_td_same hp]

/-- The updates write disjoint state, and neither reads what the other writes (R191). -/
theorem Predictor.updF_updD_comm (p : Predictor) (H : Config.Hashes) (a : Word) :
    (p.updF H a).updD H a = (p.updD H a).updF H a := rfl

/-- The difference wraps below zero (R186). -/
theorem toNat_sub_eq_ite (a b : Word) :
    (a - b).toNat = if b.toNat ≤ a.toNat then a.toNat - b.toNat else 2 ^ 64 - (b.toNat - a.toNat) := by
  split
  next h => exact BitVec.toNat_sub_of_le h
  next h => exact BitVec.toNat_sub_of_lt (BitVec.lt_def.mpr (Nat.lt_of_not_le h))

/-! ### The default mixing functions -/

/-- Masking to `n ≤ 32` bits takes the remainder by `2 ^ n`, which 32 bits hold (R10). -/
theorem masked_toNat (x : Word) {n : Nat} (hn : n ≤ 32) :
    ((x &&& maskWord n).setWidth 32).toNat = x.toNat % 2 ^ n := by
  have hlt : x.toNat % 2 ^ n < 2 ^ 32 :=
    (Nat.mod_lt _ (Nat.two_pow_pos n)).trans_le (Nat.pow_le_pow_right (by decide) hn)
  rw [BitVec.toNat_setWidth, BitVec.toNat_and, maskWord_toNat hn, Nat.and_two_pow_sub_one_eq_mod,
    Nat.mod_eq_of_lt hlt]

/-- A context shifted up by at most 32 places loses no bit of the 64 (R184, R189). -/
theorem shiftedContext_toNat (ctx : BitVec 32) {k : Nat} (hk : k ≤ 32) :
    (ctx.setWidth 64 <<< k).toNat = ctx.toNat * 2 ^ k := by
  have hlt : ctx.toNat * 2 ^ k < 2 ^ 64 :=
    calc ctx.toNat * 2 ^ k < 2 ^ 32 * 2 ^ k := Nat.mul_lt_mul_of_pos_right ctx.isLt (Nat.two_pow_pos k)
      _ ≤ 2 ^ 32 * 2 ^ 32 := Nat.mul_le_mul_left _ (Nat.pow_le_pow_right (by decide) hk)
      _ = 2 ^ 64 := by decide
  rw [BitVec.toNat_shiftLeft, BitVec.toNat_setWidth_of_le (by decide), Nat.shiftLeft_eq, Nat.mod_eq_of_lt hlt]

/-- Both default mixing functions have this form: the context shifted up, the word shifted down, masked. -/
theorem mixed_toNat (ctx : BitVec 32) (w : Word) {n k : Nat} (hn : n ≤ 32) (hk : k ≤ 32) (j : Nat) :
    ((((ctx.setWidth 64 <<< k) ^^^ (w >>> j)) &&& maskWord n).setWidth 32).toNat
      = ((ctx.toNat * 2 ^ k) ^^^ (w.toNat / 2 ^ j)) % 2 ^ n := by
  rw [masked_toNat _ hn, BitVec.toNat_xor, shiftedContext_toNat ctx hk, BitVec.toNat_ushiftRight,
    Nat.shiftRight_eq_div_pow]

theorem hashF_toNat {lsz : BitVec 6} (hlsz : lsz.toNat ≤ 32) (ctx : BitVec 32) (a : Word) :
    (hashF lsz ctx a).toNat = ((ctx.toNat * 2 ^ 6) ^^^ (a.toNat / 2 ^ 48)) % 2 ^ lsz.toNat :=
  mixed_toNat ctx a hlsz (by decide) 48

theorem hashD_toNat {lsz : BitVec 6} (hlsz : lsz.toNat ≤ 32) (ctx : BitVec 32) (d : Word) :
    (hashD lsz ctx d).toNat = ((ctx.toNat * 2 ^ 2) ^^^ (d.toNat / 2 ^ 40)) % 2 ^ lsz.toNat :=
  mixed_toNat ctx d hlsz (by decide) 40

/-- A machine built with the defaults mixes with them (R5, R6). -/
theorem State.hashes_of_standard {s : State} (h : s.build.mixing = .standard) : s.hashes = defaultHashes := by
  rw [State.hashes, h, mixingHashes_standard]

/-! ### What the parser leaves unchanged -/

/-- `t` has the tables, contexts and LAST_D of `s`. -/
structure State.SameEngines (s t : State) : Prop where
  tf : t.pred.tf = s.pred.tf
  td : t.pred.td = s.pred.td
  ctxF : t.pred.ctxF = s.pred.ctxF
  ctxD : t.pred.ctxD = s.pred.ctxD
  lastD : t.pred.lastD = s.pred.lastD

/-- `t` differs from `s` at most in what a parser operation may write: the two selected slots, the contexts and LAST_D,
the counters BYTES, VALUES and SRC_LEN, ERR and ERRCODE, ACT, the configuration, BIN and VOUT, the record boundaries. -/
structure State.ParserFrame (s t : State) : Prop where
  tf : ∀ j ≠ s.pred.ctxF.toNat, Memory.read t.pred.tf j = Memory.read s.pred.tf j
  td : ∀ j ≠ s.pred.ctxD.toNat, Memory.read t.pred.td j = Memory.read s.pred.td j
  logSize : t.regs.logSize = s.regs.logSize
  count : t.regs.count = s.regs.count
  capacity : t.regs.capacity = s.regs.capacity
  done : t.regs.done = s.regs.done
  lastOp : t.regs.lastOp = s.regs.lastOp
  doneIe : t.regs.doneIe = s.regs.doneIe
  errIe : t.regs.errIe = s.regs.errIe
  n : t.seq.n = s.seq.n
  vin : t.ports.vin = s.ports.vin
  bout : t.ports.bout = s.ports.bout
  irq : t.irq = s.irq
  build : t.build = s.build
  turns : t.env.turns = s.env.turns

theorem State.SameEngines.refl (s : State) : s.SameEngines s := ⟨rfl, rfl, rfl, rfl, rfl⟩

/-- Popping bytes touches neither engine. -/
theorem State.SameEngines.takeBin (s : State) (k : Nat) : s.SameEngines (s.takeBin k) := ⟨rfl, rfl, rfl, rfl, rfl⟩

/-- An error touches neither engine, though it may end the configuration (R340). -/
theorem State.SameEngines.raise (s : State) (e : BlockError) : s.SameEngines (s.raise e) := by
  constructor <;> rw [State.raise_pred] <;> split <;> rfl

theorem State.ParserFrame.refl (s : State) : s.ParserFrame s := by
  constructor <;> intros <;> rfl

/-- Popping bytes moves SRC_LEN, BYTES and BIN alone (R55). -/
theorem State.ParserFrame.takeBin (s : State) (k : Nat) : s.ParserFrame (s.takeBin k) := by
  constructor <;> intros <;> rfl

/-- An error sets ERR and ERRCODE and stops the command; DONE and the operand registers stay (R340). -/
theorem State.ParserFrame.raise (s : State) (e : BlockError) : s.ParserFrame (s.raise e) := by
  have hengines := SameEngines.raise s e
  constructor
  case tf => exact fun j _ => by rw [hengines.tf]
  case td => exact fun j _ => by rw [hengines.td]
  all_goals rfl

/-- A decoded value is written to the two selected slots and no other (R181, R186, R190). -/
theorem State.ParserFrame.afterRealHalf (s : State) (e : Engine) (c : BitVec 3) :
    s.ParserFrame (s.afterRealHalf e c) := by
  constructor
  case tf => exact fun j hj => Memory.read_write_other _ _ hj
  case td => exact fun j hj => Memory.read_write_other _ _ hj
  all_goals rfl

/-- A half keeps the frame whether its slot is real, synthetic, short of SRC_LEN or short of BIN. -/
theorem State.ParserFrame.runHalf (s : State) (e : Engine) (c : BitVec 3) : s.ParserFrame (s.runHalf e c) := by
  rcases s.runHalf_cases e c with ⟨-, -, -, -, h⟩ | ⟨-, -, -, -, h⟩ | ⟨-, -, h⟩ | ⟨-, h⟩ <;> rw [h]
  · exact afterRealHalf s e c
  · exact takeBin s _
  · exact raise s _
  · exact refl s

/-- What TERM can do: pop a byte, raise an underflow, or nothing (R276, R279). -/
theorem exec_term_cases {s t : State} (h : exec .term s = .next t) :
    t = s.takeBin 1 ∨ t = s.raise .underflow ∨ t = s := by
  obtain rfl : s.parse 1 (fun u => u) = t := Host.Outcome.next.inj h
  rcases s.parse_cases 1 (fun u => u) with ⟨-, e⟩ | ⟨-, -, e⟩ | ⟨-, -, -, e⟩ | ⟨-, -, -, e⟩
  · exact .inr (.inr e)
  · exact .inr (.inl e)
  · exact .inr (.inr e)
  · exact .inl e

theorem exec_term_sameEngines {s t : State} (h : exec .term s = .next t) : s.SameEngines t := by
  rcases exec_term_cases h with rfl | rfl | rfl
  · exact .takeBin s 1
  · exact .raise s _
  · exact .refl _

theorem exec_term_parserFrame {s t : State} (h : exec .term s = .next t) : s.ParserFrame t := by
  rcases exec_term_cases h with rfl | rfl | rfl
  · exact .takeBin s 1
  · exact .raise s _
  · exact .refl _

/-- Every instruction encoded in a slot runs as the half of its own four bits (R144, R162). -/
theorem exec_of_slot2 {i : Instr} (hi : i.format = .slot2) (s : State) :
    exec i s = .next (s.runHalf (nibbleEngine i.opBits) (i.opBits.extractLsb' 0 3)) := by
  have h := exec_decodeHalf i.opBits s
  rwa [decodeHalf_opBits hi] at h

theorem exec_slot2_parserFrame {i : Instr} {s t : State} (hi : i.format = .slot2) (h : exec i s = .next t) :
    s.ParserFrame t := by
  obtain rfl := Host.Outcome.next.inj ((exec_of_slot2 hi s).symm.trans h)
  exact .runHalf s _ _

end Sys2Proof.Machine

namespace Sys2Proof.Proofs

open Sys2Proof.Machine Sys2Proof.Stated

/-- The rows of the statements' table of halves are all encoded in a slot. -/
theorem format_of_mem_halfRows : ∀ row ∈ halfRows, row.1.format = .slot2 := by decide

/-- Settles O15: the one write to TF, and the range condition of the mixing function. -/
theorem fcmUpdateWritesSlotAndContext : Obligations.FcmUpdateWritesSlotAndContext := by
  unfold Obligations.FcmUpdateWritesSlotAndContext
  intro H p a hp
  exact ⟨Predictor.read_updF_tf_same hp H a, fun _ => p.read_updF_tf_other H a, rfl,
    fun _ hH hlsz1 hlszMax hctx => (hH p.lsz p.ctxF a hlsz1 hlszMax hctx).1,
    Predictor.predF_updF_of_ctxF_eq hp, rfl, rfl, rfl, rfl, rfl⟩

/-- Settles O16: the one write to TD, and the wrap of the difference. -/
theorem dfcmUpdateWritesDeltaContextAndLast : Obligations.DfcmUpdateWritesDeltaContextAndLast := by
  unfold Obligations.DfcmUpdateWritesDeltaContextAndLast
  intro H p a hp
  exact ⟨Predictor.read_updD_td_same hp H a, fun _ => p.read_updD_td_other H a, rfl, rfl,
    toNat_sub_eq_ite a p.lastD, rfl, rfl, rfl, rfl⟩

/-- Settles O17: a mask is a remainder, and the shifted context fits in 64 bits. -/
theorem defaultHashesAreTheSpecs : Obligations.DefaultHashesAreTheSpecs := by
  unfold Obligations.DefaultHashesAreTheSpecs
  intro s lsz ctx w hstandard _ hlsz
  rw [State.hashes_of_standard hstandard]
  exact ⟨hashF_toNat hlsz ctx w, hashD_toNat hlsz ctx w⟩

/-- Settles O44: each outcome of a half or of TERM keeps the frame, and no outcome of TERM reaches an engine. -/
theorem halfAndTermFrame : Obligations.HalfAndTermFrame := by
  unfold Obligations.HalfAndTermFrame
  intro i s t hi h
  have hframe : s.ParserFrame t := by
    rcases hi with ⟨row, hrow, rfl⟩ | rfl
    · exact exec_slot2_parserFrame (format_of_mem_halfRows row hrow) h
    · exact exec_term_parserFrame h
  refine ⟨hframe.tf, hframe.td, ?term, hframe.logSize, hframe.count, hframe.capacity, hframe.done, hframe.lastOp,
    hframe.doneIe, hframe.errIe, hframe.n, hframe.vin, hframe.bout, hframe.irq, hframe.build, hframe.turns⟩
  case term =>
    rintro rfl
    obtain ⟨htf, htd, hctxF, hctxD, hlastD⟩ := exec_term_sameEngines h
    exact ⟨htf, htd, hctxF, hctxD, hlastD⟩

/-- Settles O14: the DFCM prediction is an addition of words. -/
theorem predictionsReadTheSelectedSlots : Obligations.PredictionsReadTheSelectedSlots := by
  unfold Obligations.PredictionsReadTheSelectedSlots
  exact fun _ => ⟨rfl, BitVec.toNat_add _ _⟩

/-- Settles O18: the update leaves LAST_D at the value, and the old slot at the difference. -/
theorem dfcmPredictionAfterUpdate : Obligations.DfcmPredictionAfterUpdate := by
  unfold Obligations.DfcmPredictionAfterUpdate
  exact fun H p a hp => ⟨p.predD_updD H a, Predictor.predD_updD_of_ctxD_eq hp⟩

/-- Settles O19: the two updates commute. -/
theorem observeIsBothUpdatesInEitherOrder : Obligations.ObserveIsBothUpdatesInEitherOrder := by
  unfold Obligations.ObserveIsBothUpdatesInEitherOrder
  intro H p a
  exact ⟨rfl, p.updF_updD_comm H a, rfl, rfl, rfl, rfl, rfl, encHalf_snd H p a, decHalf_snd H p⟩

end Sys2Proof.Proofs

/-! # Residuals, payloads and the halves of values -/

namespace Sys2Proof.Machine

/-! ### The leading-zero-byte count -/

/-- R213 as one condition for every count, zero's eight bytes among them. -/
theorem le_lzb_iff (r : Word) {k : Nat} (hk : k ≤ 8) : k ≤ lzb r ↔ r.toNat < 2 ^ (64 - 8 * k) := by
  by_cases hr : r = 0#64
  · simp [hr, hk]
  · obtain ⟨hle, hlt, hmax⟩ := lzbUpTo_spec r 7
    rw [lzb_of_ne_zero hr]
    refine ⟨fun h => hlt.trans_le (Nat.pow_le_pow_right (by decide) (by omega)), fun h => ?_⟩
    rcases hk.lt_or_eq with hk | rfl
    · exact hmax k (by omega) h
    · exact absurd (BitVec.eq_of_toNat_eq (Nat.lt_one_iff.mp h)) hr

theorem toNat_lt_two_pow_lzb (r : Word) : r.toNat < 2 ^ (64 - 8 * lzb r) :=
  (le_lzb_iff r (lzb_le r)).mp le_rfl

/-- Only zero has all eight bytes zero. -/
theorem lzb_lt_eight_iff (r : Word) : lzb r < 8 ↔ r ≠ 0#64 := by
  have hzero : r.toNat < 1 ↔ r = 0#64 := Nat.lt_one_iff.trans (BitVec.toNat_inj (y := 0#64))
  rw [← Nat.not_le]
  exact not_congr ((le_lzb_iff r le_rfl).trans hzero)

/-- A larger word has no more leading zero bytes (R214). -/
theorem lzb_anti {r1 r2 : Word} (h : r1.toNat ≤ r2.toNat) : lzb r2 ≤ lzb r1 :=
  (le_lzb_iff r1 (lzb_le r2)).mpr (h.trans_lt (toNat_lt_two_pow_lzb r2))

/-- `k` leading bits are zero exactly when the number fits in the others. -/
theorem le_toNat_clz_iff (r : Word) {k : Nat} (hk : k ≤ 64) : k ≤ r.clz.toNat ↔ r.toNat < 2 ^ (64 - k) := by
  have hfits : r.toNat < 2 ^ (64 - r.clz.toNat) := BitVec.toNat_lt_two_pow_sub_clz
  refine ⟨fun h => hfits.trans_le (Nat.pow_le_pow_right (by decide) (by omega)), fun h => ?_⟩
  by_contra hclz
  have hr : r ≠ 0#64 := BitVec.clz_lt_iff_ne_zero.mp (BitVec.lt_def.mpr (show r.clz.toNat < 64 by omega))
  have htop : 2 ^ (64 - 1 - r.clz.toNat) ≤ r.toNat := BitVec.two_pow_sub_clz_le_toNat_of_ne_zero (by decide) hr
  have hpow : 2 ^ (64 - k) ≤ 2 ^ (64 - 1 - r.clz.toNat) := Nat.pow_le_pow_right (by decide) (by omega)
  omega

/-- The zero bytes are the zero bits, eight to a byte (R213). -/
theorem lzb_eq_clz_div (r : Word) : lzb r = r.clz.toNat / 8 := by
  have hbits {k : Nat} (hk : k ≤ 8) : k ≤ lzb r ↔ k * 8 ≤ r.clz.toNat := by
    rw [le_lzb_iff r hk, le_toNat_clz_iff r (by omega), Nat.mul_comm]
  have hclz : r.clz.toNat ≤ 64 := BitVec.clz_le
  apply Nat.le_antisymm
  · exact (Nat.le_div_iff_mul_le (by decide)).mpr ((hbits (lzb_le r)).mp le_rfl)
  · exact (hbits (by omega)).mpr (Nat.div_mul_le_self _ _)

/-! ### Payload bytes -/

/-- Byte `j + 1` of a word is byte `j` of the word without its low byte. -/
theorem extractLsb'_ushiftRight_byte (r : Word) (j : Nat) :
    (r >>> 8).extractLsb' (8 * j) 8 = r.extractLsb' (8 * (j + 1)) 8 := by
  ext i hi
  simp only [BitVec.getElem_extractLsb', BitVec.getLsbD_ushiftRight]
  congr 1
  omega

/-- The low byte of a number built by `des` is the first byte of the list. -/
theorem extractLsb'_zero_des_cons (b : Byte) (bs : List Byte) : (des (b :: bs)).extractLsb' 0 8 = b := by
  ext i hi
  have hin : i < 64 := by omega
  simp [des_cons, hi, hin]

/-- The other bytes of a number built by `des` are those of the rest of the list, within 64 bits. -/
theorem extractLsb'_succ_des_cons (b : Byte) (bs : List Byte) {j : Nat} (hj : j + 1 < 8) :
    (des (b :: bs)).extractLsb' (8 * (j + 1)) 8 = (des bs).extractLsb' (8 * j) 8 := by
  ext i hi
  have hin : 8 * (j + 1) + i < 64 := by omega
  have hin' : 8 * j + i < 64 := by omega
  have hshift : 8 * (j + 1) + i - 8 = 8 * j + i := by omega
  have hhigh : ¬ 8 * (j + 1) + i < 8 := by omega
  have hb : b.getLsbD (8 * (j + 1) + i) = false := BitVec.getLsbD_of_ge b _ (by omega)
  simp [des_cons, hin, hin', hshift, hhigh, hb]

/-- Byte `j` of a serialised residual (R219). -/
theorem getElem?_ser (r : Word) {n j : Nat} (hj : j < n) : (ser r n)[j]? = some (r.extractLsb' (8 * j) 8) := by
  induction n generalizing r j with
  | zero => omega
  | succ n ih =>
    cases j with
    | zero => rw [ser, List.getElem?_cons_zero, BitVec.setWidth_eq_extractLsb' (by decide)]
    | succ j => rw [ser, List.getElem?_cons_succ, ih _ (by omega), extractLsb'_ushiftRight_byte]

/-- Byte `j` of a deserialised list, zero beyond it (R220). -/
theorem extractLsb'_des (bs : List Byte) {j : Nat} (hj : j < 8) :
    (des bs).extractLsb' (8 * j) 8 = bs.getD j 0 := by
  induction bs generalizing j with
  | nil => simp
  | cons b bs ih =>
    cases j with
    | zero => exact extractLsb'_zero_des_cons b bs
    | succ j => rw [extractLsb'_succ_des_cons b bs hj, ih (by omega), List.getD_cons_succ]

/-- The serialiser writes a word as the host window does (R105, R219). -/
theorem ser_eq_bytesOfWord (r : Word) (n : Nat) : ser r n = bytesOfWord n r := by
  induction n generalizing r with
  | zero => rfl
  | succ n ih => rw [ser, bytesOfWord, ih]

/-- The deserialiser reads bytes as the host window does (R105, R220). -/
theorem des_eq_wordOfBytes (bs : List Byte) : des bs = wordOfBytes bs := by
  induction bs with
  | nil => rfl
  | cons b bs ih => rw [des, wordOfBytes, ih]

/-- Bytes enough for a residual give it back. -/
theorem des_ser {r : Word} {n : Nat} (h : r.toNat < 2 ^ (8 * n)) : des (ser r n) = r := by
  rw [des_eq_wordOfBytes, ser_eq_bytesOfWord, wordOfBytes_bytesOfWord h]

/-! ### The payload of a residual's code -/

/-- A code never stands for more zero bytes than the count it was made from (R150, R151). -/
theorem inv_codeOf_le {z : Nat} (hz : z ≤ 8) : inv (codeOf z) ≤ z := by
  by_cases h4 : z = 4
  · subst h4
    decide
  · exact (inv_codeOf hz h4).le

/-- The payload is long enough for the residual its code was made from (R221). -/
theorem toNat_lt_two_pow_nbytes (r : Word) : r.toNat < 2 ^ (8 * nbytes (codeOf (lzb r))) := by
  have hinv := inv_codeOf_le (lzb_le r)
  rw [nbytes, Nat.mul_sub]
  exact (le_lzb_iff r (inv_le _)).mp hinv

theorem des_ser_nbytes (r : Word) : des (ser r (nbytes (codeOf (lzb r)))) = r :=
  des_ser (toNat_lt_two_pow_nbytes r)

/-- The bytes above a number are zero. -/
theorem extractLsb'_eq_zero_of_lt {r : Word} {n j : Nat} (hr : r.toNat < 2 ^ (8 * n)) (hj : n ≤ j) :
    r.extractLsb' (8 * j) 8 = 0 := by
  have hlt : r.toNat < 2 ^ (8 * j) := hr.trans_le (Nat.pow_le_pow_right (by decide) (by omega))
  apply BitVec.eq_of_toNat_eq
  rw [BitVec.extractLsb'_toNat, Nat.shiftRight_eq_div_pow, Nat.div_eq_of_lt hlt]
  rfl

/-! ### Selection -/

theorem selectEngine_of_lt {rF rD : Word} (h : lzb rF < lzb rD) : selectEngine rF rD = .dfcm := if_pos h

/-- Every tie is FCM (R215). -/
theorem selectEngine_of_le {rF rD : Word} (h : lzb rD ≤ lzb rF) : selectEngine rF rD = .fcm := if_neg h.not_gt

theorem selectEngine_eq_dfcm_iff (rF rD : Word) : selectEngine rF rD = .dfcm ↔ lzb rF < lzb rD := by
  rcases Nat.lt_or_ge (lzb rF) (lzb rD) with h | h
  · simp [selectEngine_of_lt h, h]
  · simp [selectEngine_of_le h, h]

/-! ### The half of a value -/

/-- An engine's prediction, by its selector bit (R223). -/
theorem Predictor.predict_eq_ite (p : Predictor) (e : Engine) :
    p.predict e = if e = .dfcm then p.predD else p.predF := by
  cases e <;> rfl

theorem Predictor.halfOf_engine (p : Predictor) (a : Word) :
    (p.halfOf a).engine = selectEngine (p.predF ^^^ a) (p.predD ^^^ a) := rfl

/-- The code is that of the selected engine's residual (R217). -/
theorem Predictor.halfOf_code (p : Predictor) (a : Word) :
    (p.halfOf a).code = codeOf (lzb (p.predict (p.halfOf a).engine ^^^ a)) := by
  simp only [halfOf]
  cases selectEngine (p.predF ^^^ a) (p.predD ^^^ a) <;> rfl

/-- The payload is the selected engine's residual, as long as its code says (R218, R219). -/
theorem Predictor.halfOf_payload (p : Predictor) (a : Word) :
    (p.halfOf a).payload = ser (p.predict (p.halfOf a).engine ^^^ a) (nbytes (p.halfOf a).code) := by
  simp only [halfOf]
  cases selectEngine (p.predF ^^^ a) (p.predD ^^^ a) <;> rfl

/-- The selected residual has the larger of the two counts (R216). -/
theorem Predictor.lzb_halfOf_residual (p : Predictor) (a : Word) :
    lzb (p.predict (p.halfOf a).engine ^^^ a) = max (lzb (p.predF ^^^ a)) (lzb (p.predD ^^^ a)) := by
  rw [halfOf_engine]
  rcases Nat.lt_or_ge (lzb (p.predF ^^^ a)) (lzb (p.predD ^^^ a)) with h | h
  · rw [selectEngine_of_lt h, predict, max_eq_right h.le]
  · rw [selectEngine_of_le h, predict, max_eq_left h]

/-- Either engine's residual, sent with its own code, is decoded to the value (R223, R224). -/
theorem decHalf_ser_residual (H : Config.Hashes) (p : Predictor) (e : Engine) (a : Word) :
    decHalf H p e (ser (p.predict e ^^^ a) (nbytes (codeOf (lzb (p.predict e ^^^ a))))) = (a, p.observe H a) := by
  have hvalue : p.predict e ^^^ a ^^^ p.predict e = a := by
    rw [BitVec.xor_comm (p.predict e) a, BitVec.xor_assoc, BitVec.xor_self, BitVec.xor_zero]
  rw [decHalf, des_ser_nbytes, hvalue]

/-- The half of a value is decoded to the value (R224). -/
theorem decHalf_halfOf (H : Config.Hashes) (p : Predictor) (a : Word) :
    decHalf H p (p.halfOf a).engine (p.halfOf a).payload = (a, p.observe H a) := by
  rw [p.halfOf_payload, p.halfOf_code, decHalf_ser_residual]

/-! ### A half as an instruction -/

/-- A real slot whose payload stands at the head of BIN. -/
theorem State.runHalf_of_bin_append {s : State} (e : Engine) {c : BitVec 3} {payload rest : List Byte}
    (hact : s.seq.act = .decode) (hv : s.regs.values.toNat < s.seq.n.toNat) (hbin : s.ports.bin = payload ++ rest)
    (hpayload : payload.length = nbytes c) (hlen : nbytes c ≤ s.regs.srcLen.toNat) :
    s.runHalf e c = { s with
      pred := (decHalf s.hashes s.pred e payload).2
      ports := { s.ports with bin := rest, vout := s.ports.vout ++ [(decHalf s.hashes s.pred e payload).1] }
      regs := { s.regs with
        srcLen := s.regs.srcLen - BitVec.ofNat 64 (nbytes c)
        bytes := s.regs.bytes + BitVec.ofNat 64 (nbytes c)
        values := s.regs.values + 1#64 } } := by
  have hthere : nbytes c ≤ s.ports.bin.length := by
    rw [hbin, List.length_append]
    omega
  rw [runHalf_real e hact hlen hthere hv, afterRealHalf, hbin, List.take_left' hpayload, List.drop_left' hpayload]

end Sys2Proof.Machine

namespace Sys2Proof.Proofs

open Sys2Proof.Machine Sys2Proof.Stated

/-- Each row of the statements' table names the engine and the payload length of its half's own four bits. -/
theorem nibble_of_mem_halfRows : ∀ row ∈ halfRows,
    nibbleEngine row.1.opBits = row.2.1 ∧ nbytes (row.1.opBits.extractLsb' 0 3) = row.2.2 := by decide

/-- Settles O10: `k ≤ lzb r` bounds `r`, and so does a count of leading zero bits. -/
theorem lzbIsTheLeadingZeroByteCount : Obligations.LzbIsTheLeadingZeroByteCount := by
  unfold Obligations.LzbIsTheLeadingZeroByteCount
  refine ⟨fun r => ⟨?zero, fun hr => ⟨?le, toNat_lt_two_pow_lzb r, ?largest⟩, lzb_eq_clz_div r⟩, fun _ _ => lzb_anti⟩
  case zero =>
    rintro rfl
    exact lzb_zero
  case le => exact Nat.le_of_lt_succ ((lzb_lt_eight_iff r).mpr hr)
  case largest => exact fun k hk => (le_lzb_iff r (by omega)).mpr

/-- Settles O12: one byte at a time, along the number of bytes and along the list. -/
theorem payloadBytesAreLittleEndian : Obligations.PayloadBytesAreLittleEndian := by
  unfold Obligations.PayloadBytesAreLittleEndian
  exact ⟨fun r n _ => ⟨ser_length r n, fun _ => getElem?_ser r⟩, fun bs _ _ => extractLsb'_des bs⟩

/-- Settles O13: the residual is below `2 ^ (8 n)` for the `n` of its own code. -/
theorem payloadCarriesTheWholeResidual : Obligations.PayloadCarriesTheWholeResidual := by
  unfold Obligations.PayloadCarriesTheWholeResidual
  exact fun r => ⟨inv_codeOf_le (lzb_le r),
    fun _ hj _ => extractLsb'_eq_zero_of_lt (toNat_lt_two_pow_nbytes r) hj, des_ser_nbytes r⟩

/-- Settles O21: the payload gives the residual back, and XOR with the same prediction undoes it. -/
theorem halfRoundTrip : Obligations.HalfRoundTrip := by
  unfold Obligations.HalfRoundTrip
  exact fun H p a => ⟨decHalf_halfOf H p a, fun e => decHalf_ser_residual H p e a⟩

/-- Settles O41: every half runs with the engine and the code of its four bits, and its slot is a real one. -/
theorem halfDecodesOneValue : Obligations.HalfDecodesOneValue := by
  unfold Obligations.HalfDecodesOneValue
  intro row hrow s payload rest hact hv hbin hpayload hlen
  obtain ⟨hengine, hnbytes⟩ := nibble_of_mem_halfRows row hrow
  rw [← hnbytes] at hpayload
  rw [hpayload] at hlen
  rw [exec_of_slot2 (format_of_mem_halfRows row hrow), State.runHalf_of_bin_append _ hact hv hbin hpayload hlen,
    hnbytes, hengine, ← Predictor.predict_eq_ite]
  rfl

/-- Settles O11: zero has the largest count, and only zero has it. -/
theorem selectorIsDfcmOnlyOnMoreZeroBytes : Obligations.SelectorIsDfcmOnlyOnMoreZeroBytes := by
  unfold Obligations.SelectorIsDfcmOnlyOnMoreZeroBytes
  refine fun rF rD => ⟨selectEngine_eq_dfcm_iff rF rD, ?exactF, ?exactD⟩
  case exactF =>
    rintro rfl
    exact selectEngine_of_le (lzb_le rD)
  case exactD =>
    rintro rfl hrF
    exact selectEngine_of_lt ((lzb_lt_eight_iff rF).mpr hrF)

/-- Settles O20: the half is that of the state before, and the selected residual has the larger count. -/
theorem encHalfUsesPredictionsBeforeUpdate : Obligations.EncHalfUsesPredictionsBeforeUpdate := by
  unfold Obligations.EncHalfUsesPredictionsBeforeUpdate
  intro H p a
  have hcode : (p.halfOf a).code = codeOf (max (lzb (p.predF ^^^ a)) (lzb (p.predD ^^^ a))) := by
    rw [p.halfOf_code, p.lzb_halfOf_residual]
  exact ⟨rfl, hcode, p.halfOf_payload a, rfl⟩

end Sys2Proof.Proofs

/-! # The record steps of ENCODE -/

namespace Sys2Proof.Machine

open Sys2Proof.Stated

/-! ### The bytes of a record -/

/-- The header byte is the number R144 writes out for it. -/
theorem ofNat_headerNumber (s1 : Engine) (c1 : BitVec 3) (s2 : Engine) (c2 : BitVec 3) :
    BitVec.ofNat 8 (headerNumber s1 c1 s2 c2) = packHeader s1 c1 s2 c2 := by
  cases s1 <;> cases s2 <;> revert c1 c2 <;> decide

/-- The bytes a full record of two values has under a predictor state, slot 2 under the state slot 1 leaves (R242). -/
def Predictor.fullRecordBytes (H : Config.Hashes) (p : Predictor) (a1 a2 : Word) : List Byte :=
  let h1 := p.halfOf a1
  let h2 := (p.observe H a1).halfOf a2
  BitVec.ofNat 8 (headerNumber h1.engine h1.code h2.engine h2.code) :: (h1.payload ++ h2.payload)

/-- The bytes a padding record of one value has under a predictor state (R243). -/
def Predictor.paddingRecordBytes (p : Predictor) (a1 : Word) : List Byte :=
  let h1 := p.halfOf a1
  BitVec.ofNat 8 (headerNumber h1.engine h1.code .fcm 7) :: (h1.payload ++ [0x00])

theorem Predictor.fullRecordBytes_length (H : Config.Hashes) (p : Predictor) (a1 a2 : Word) :
    (p.fullRecordBytes H a1 a2).length =
      1 + (p.halfOf a1).payload.length + ((p.observe H a1).halfOf a2).payload.length := by
  rw [fullRecordBytes, List.length_cons, List.length_append]
  omega

theorem Predictor.paddingRecordBytes_length (p : Predictor) (a1 : Word) :
    (p.paddingRecordBytes a1).length = 2 + (p.halfOf a1).payload.length := by
  rw [paddingRecordBytes, List.length_cons, List.length_append, List.length_singleton]
  omega

/-! ### The values a record takes -/

/-- The state in which a record step has taken its values: VIN is left with `rest`, and the engines with `p`. -/
def State.afterObserving (s : State) (p : Predictor) (rest : List Word) : State :=
  { s with pred := p, ports := { s.ports with vin := rest } }

/-- A full record step observes both values and ends with its record's bytes (R242). -/
theorem State.fullRecord_eq (s : State) (a1 a2 : Word) (rest : List Word) :
    s.fullRecord a1 a2 rest =
      (s.afterObserving ((s.pred.observe s.hashes a1).observe s.hashes a2) rest).emitRecord
        (s.pred.fullRecordBytes s.hashes a1 a2) 2 := by
  rw [Predictor.fullRecordBytes, ofNat_headerNumber]
  rfl

/-- A padding record step observes its one value and ends with its record's bytes (R243). -/
theorem State.paddingRecord_eq (s : State) (a1 : Word) (rest : List Word) :
    s.paddingRecord a1 rest =
      (s.afterObserving (s.pred.observe s.hashes a1) rest).emitRecord (s.pred.paddingRecordBytes a1) 1 := by
  rw [Predictor.paddingRecordBytes, ofNat_headerNumber]
  rfl

/-! ### Which step the block takes -/

/-- With two values left to encode and on VIN, the block's step is a full record step (R240, R242). -/
theorem State.blockStep_fullRecord {s : State} {a1 a2 : Word} {rest : List Word} (hact : s.seq.act = .encode)
    (hn : s.regs.values.toNat + 2 ≤ s.seq.n.toNat) (hvin : s.ports.vin = a1 :: a2 :: rest) :
    s.blockStep = .next
      ((s.afterObserving ((s.pred.observe s.hashes a1).observe s.hashes a2) rest).emitRecord
        (s.pred.fullRecordBytes s.hashes a1 a2) 2) := by
  rw [blockStep_of_encode hact, ← fullRecord_eq]
  rcases s.encodeStep_cases with ⟨hend, -⟩ | ⟨b1, b2, rest', -, hvin', hstep⟩ | ⟨-, -, hlast, -⟩ | ⟨-, hshort, -⟩
  case inr.inl =>
    obtain ⟨rfl, rfl, rfl⟩ : a1 = b1 ∧ a2 = b2 ∧ rest = rest' := by simpa [hvin] using hvin'
    rw [hstep]
  case inr.inr.inr =>
    rw [hvin, List.length_cons, List.length_cons] at hshort
    omega
  all_goals omega

/-- With one value left to encode and one on VIN, the block's step is a padding record step (R240, R243). -/
theorem State.blockStep_paddingRecord {s : State} {a1 : Word} {rest : List Word} (hact : s.seq.act = .encode)
    (hn : s.regs.values.toNat + 1 = s.seq.n.toNat) (hvin : s.ports.vin = a1 :: rest) :
    s.blockStep = .next
      ((s.afterObserving (s.pred.observe s.hashes a1) rest).emitRecord (s.pred.paddingRecordBytes a1) 1) := by
  rw [blockStep_of_encode hact, ← paddingRecord_eq]
  rcases s.encodeStep_cases with ⟨hend, -⟩ | ⟨-, -, -, htwo, -⟩ | ⟨b1, rest', -, hvin', hstep⟩ | ⟨-, hshort, -⟩
  case inr.inr.inl =>
    obtain ⟨rfl, rfl⟩ : a1 = b1 ∧ rest = rest' := by simpa [hvin] using hvin'
    rw [hstep]
  case inr.inr.inr =>
    rw [hvin, List.length_cons] at hshort
    omega
  all_goals omega

/-- With a value left to encode and too few on VIN, the block waits (R241, R391). -/
theorem State.blockStep_encode_waits {s : State} (hact : s.seq.act = .encode)
    (hv : s.regs.values.toNat < s.seq.n.toNat)
    (hshort : s.ports.vin.length < min 2 (s.seq.n.toNat - s.regs.values.toNat)) : s.blockStep = .next s := by
  rw [blockStep_of_encode hact]
  rcases s.encodeStep_cases with ⟨hend, -⟩ | ⟨_, _, _, -, hvin, -⟩ | ⟨_, _, hlast, hvin, -⟩ | ⟨-, -, hstep⟩
  case inr.inr.inr => rw [hstep]
  case inl => omega
  all_goals
    simp only [hvin, List.length_cons] at hshort
    omega

/-! ### How a record step ends -/

/-- A record that fits in CAPACITY goes to BOUT whole, and the counters move (R245). -/
theorem State.emitRecord_of_le {s : State} {record : List Byte} (nvals : Nat)
    (hfits : record.length ≤ s.regs.capacity.toNat) :
    s.emitRecord record nvals =
      { s with
        ports := { s.ports with bout := s.ports.bout ++ record }
        regs := { s.regs with
          capacity := s.regs.capacity - BitVec.ofNat 64 record.length
          bytes := s.regs.bytes + BitVec.ofNat 64 record.length
          values := s.regs.values + BitVec.ofNat 64 nvals } }.mark := if_neg hfits.not_gt

/-- A record longer than CAPACITY is an error, whatever its bytes (R244). -/
theorem State.emitRecord_of_lt {s : State} {record : List Byte} (nvals : Nat)
    (hlong : s.regs.capacity.toNat < record.length) :
    s.emitRecord record nvals = s.raise .capacityExhausted := if_pos hlong

/-! ### The start -/

theorem exec_encode (s : State) :
    exec .encode s = .next (s.accept fun s => (s.prologue 2#4).startUnderInstance .encode) := rfl

theorem State.startUnderInstance_of_configured {s : State} (hc : s.pred.configured = true) (act : Act) :
    s.startUnderInstance act = s.start act := if_pos hc

end Sys2Proof.Machine

namespace Sys2Proof.Proofs

open Sys2Proof.Machine Sys2Proof.Stated

/-- Settles O31: the full record step, whose record fits. -/
theorem encodeWritesAFullRecord : Obligations.EncodeWritesAFullRecord := by
  unfold Obligations.EncodeWritesAFullRecord
  intro s a1 a2 rest h1 p1 h2 p2 record regs hact hn hvin hfits
  have hrecord : record = s.pred.fullRecordBytes s.hashes a1 a2 := rfl
  rw [State.blockStep_fullRecord hact hn hvin, ← hrecord, State.emitRecord_of_le 2]
  · rfl
  · exact hfits

/-- Settles O32: the padding record step, whose record fits. -/
theorem encodeWritesAPaddingRecord : Obligations.EncodeWritesAPaddingRecord := by
  unfold Obligations.EncodeWritesAPaddingRecord
  intro s a1 rest h1 record regs hact hn hvin hfits
  have hrecord : record = s.pred.paddingRecordBytes a1 := rfl
  rw [State.blockStep_paddingRecord hact hn hvin, ← hrecord, State.emitRecord_of_le 1]
  · rfl
  · exact hfits

/-- Settles O33: the same two record steps, whose record does not fit; the values are taken before the check. -/
theorem encodeRaisesCapacityExhausted : Obligations.EncodeRaisesCapacityExhausted := by
  unfold Obligations.EncodeRaisesCapacityExhausted
  intro s a1 rest hact hvin h1 p1
  refine ⟨fun a2 rest2 hrest hn hlong => ?full, fun hn hlong => ?padding⟩
  case full =>
    subst hrest
    have hlength := (Predictor.fullRecordBytes_length s.hashes s.pred a1 a2).symm
    rw [State.blockStep_fullRecord hact hn hvin, State.emitRecord_of_lt 2]
    · rfl
    · exact hlong.trans_eq hlength
  case padding =>
    have hlength := (Predictor.paddingRecordBytes_length s.pred a1).symm
    rw [State.blockStep_paddingRecord hact hn hvin, State.emitRecord_of_lt 1]
    · rfl
    · exact hlong.trans_eq hlength

/-- Settles O34: of what ENCODE can do, only the wait is left. -/
theorem encodeWaitsForItsValues : Obligations.EncodeWaitsForItsValues := by
  unfold Obligations.EncodeWaitsForItsValues
  exact fun _ => State.blockStep_encode_waits

/-- Settles O28: an idle block accepts, and the prologue keeps CONFIGURED. -/
theorem encodeStartsUnderAnInstance : Obligations.EncodeStartsUnderAnInstance := by
  unfold Obligations.EncodeStartsUnderAnInstance
  intro s hidle hc
  have hc' : (s.prologue 2#4).pred.configured = true := hc
  rw [exec_encode, State.accept_idle _ hidle, State.startUnderInstance_of_configured hc']
  rfl

end Sys2Proof.Proofs

/-! # The record steps of DECODE -/

namespace Sys2Proof.Machine

open Sys2Proof.Stated

/-! ### The start, and TERM -/

/-- Parts of one atomic step run in order, however they are grouped. -/
theorem andThen_assoc (o : StepOutcome) (f g : State → StepOutcome) :
    andThen (andThen o f) g = andThen o fun s => andThen (f s) g := by cases o <;> rfl

theorem exec_decode (s : State) :
    exec .decode s = .next (s.accept fun s => (s.prologue 3#4).startUnderInstance .decode) := rfl

theorem exec_term (s : State) : exec .term s = .next (s.parse 1 fun t => t) := rfl

/-- TERM with its byte on BIN and in SRC_LEN pops it, whatever it is (R276, R279). -/
theorem State.parse_term {s : State} (hact : s.seq.act = .decode) (hlen : 1 ≤ s.regs.srcLen.toNat)
    (hbin : 1 ≤ s.ports.bin.length) : (s.parse 1 fun t => t) = s.takeBin 1 := parse_run _ hact hlen hbin

/-! ### Bytes popped from BIN, values pushed to VOUT -/

/-- Popping exactly the bytes at the head of BIN leaves the others (R72). -/
theorem State.takeBin_of_bin_append {s : State} {popped rest : List Byte} {k : Nat}
    (hbin : s.ports.bin = popped ++ rest) (hk : popped.length = k) :
    s.takeBin k = { s with
      ports := { s.ports with bin := rest }
      regs := { s.regs with
        srcLen := s.regs.srcLen - BitVec.ofNat 64 k
        bytes := s.regs.bytes + BitVec.ofNat 64 k } } := by
  rw [takeBin, hbin, List.drop_left' hk]

/-- The state in which the parser has popped `k` more bytes of BIN and `rest` is left there, has decoded the values
`vs`, and has left the engines with `p` (R275, R277). -/
def State.afterReading (s : State) (k : Nat) (p : Predictor) (rest : List Byte) (vs : List Word) : State :=
  { s with
    pred := p
    ports := { s.ports with bin := rest, vout := s.ports.vout ++ vs }
    regs := { s.regs with
      srcLen := s.regs.srcLen - BitVec.ofNat 64 k
      bytes := s.regs.bytes + BitVec.ofNat 64 k
      values := s.regs.values + BitVec.ofNat 64 vs.length } }

/-- Reading on adds up: the counters count all bytes and values, in order (R55, R57, R58). -/
theorem State.afterReading_afterReading (s : State) (k l : Nat) (p q : Predictor) (mid rest : List Byte)
    (vs ws : List Word) :
    (s.afterReading k p mid vs).afterReading l q rest ws = s.afterReading (k + l) q rest (vs ++ ws) := by
  simp only [afterReading, List.append_assoc, List.length_append, BitVec.ofNat_add, sub_add_eq_sub_sub,
    BitVec.add_assoc]

theorem State.takeBin_afterReading (s : State) (k l : Nat) (p : Predictor) (rest : List Byte) (vs : List Word) :
    (s.takeBin k).afterReading l p rest vs = s.afterReading (k + l) p rest vs := by
  simp only [afterReading, takeBin, BitVec.ofNat_add, sub_add_eq_sub_sub, BitVec.add_assoc]

/-- Bytes popped and discarded count as bytes read and decode to no value (R276). -/
theorem State.afterReading_takeBin {s : State} {popped rest : List Byte} {l : Nat} (hl : popped.length = l) (k : Nat)
    (p : Predictor) (vs : List Word) :
    (s.afterReading k p (popped ++ rest) vs).takeBin l = s.afterReading (k + l) p rest vs := by
  rw [takeBin_of_bin_append rfl hl]
  simp only [afterReading, BitVec.ofNat_add, sub_add_eq_sub_sub, BitVec.add_assoc]

/-- Reading nothing changes nothing. -/
theorem State.afterReading_zero (s : State) : s.afterReading 0 s.pred s.ports.bin [] = s := by
  simp [afterReading]

theorem State.afterReading_srcLen_toNat {s : State} {k : Nat} (hk : k ≤ s.regs.srcLen.toNat) (p : Predictor)
    (rest : List Byte) (vs : List Word) :
    (s.afterReading k p rest vs).regs.srcLen.toNat = s.regs.srcLen.toNat - k := takeBin_srcLen_toNat hk

/-- The position does not wrap before N (R70). -/
theorem State.afterReading_values_toNat {s : State} {vs : List Word}
    (hn : s.regs.values.toNat + vs.length ≤ s.seq.n.toNat) (k : Nat) (p : Predictor) (rest : List Byte) :
    (s.afterReading k p rest vs).regs.values.toNat = s.regs.values.toNat + vs.length := by
  have hlt := s.seq.n.isLt
  simp only [afterReading, BitVec.toNat_add, BitVec.toNat_ofNat]
  omega

/-! ### Halves whose payload stands at the head of BIN -/

/-- A real slot reads its payload and one value. -/
theorem State.runHalf_eq_afterReading {s : State} {e : Engine} {c : BitVec 3} {payload rest : List Byte} {a : Word}
    {p : Predictor} (hact : s.seq.act = .decode) (hv : s.regs.values.toNat < s.seq.n.toNat)
    (hbin : s.ports.bin = payload ++ rest) (hpayload : payload.length = nbytes c)
    (hlen : nbytes c ≤ s.regs.srcLen.toNat) (hd : decHalf s.hashes s.pred e payload = (a, p)) :
    s.runHalf e c = s.afterReading (nbytes c) p rest [a] := by
  rw [runHalf_of_bin_append e hact hv hbin hpayload hlen, hd]
  rfl

/-- The synthetic slot pops its payload and nothing more, whatever its engine (R276). -/
theorem State.runHalf_synthetic_of_bin_append {s : State} (e : Engine) {c : BitVec 3} {payload rest : List Byte}
    (hact : s.seq.act = .decode) (hv : s.seq.n.toNat ≤ s.regs.values.toNat) (hbin : s.ports.bin = payload ++ rest)
    (hpayload : payload.length = nbytes c) (hlen : nbytes c ≤ s.regs.srcLen.toNat) :
    s.runHalf e c = s.takeBin (nbytes c) := by
  refine runHalf_synthetic e hact hlen ?_ hv
  rw [hbin, List.length_append]
  omega

/-! ### Which step the block takes -/

theorem State.atPadding_iff (s : State) : s.atPadding = true ↔ s.regs.values.toNat + 1 = s.seq.n.toNat :=
  beq_iff_eq

/-- With a value left, DECODE takes a record step (R270). -/
theorem State.blockStep_decodeRecordStep {s : State} (hact : s.seq.act = .decode)
    (hv : s.regs.values.toNat < s.seq.n.toNat) : s.blockStep = s.decodeRecordStep :=
  (blockStep_of_decode hact).trans (if_pos hv)

/-- The body length of the record at the position, as R273 writes it. -/
theorem State.bodyLength_atPadding (s : State) (h : Byte) :
    bodyLength h s.atPadding = nbytes (h.extractLsb' 4 3) + nbytes (h.extractLsb' 0 3)
      + (if s.regs.values.toNat + 1 = s.seq.n.toNat then 1 else 0) := by
  simp only [bodyLength, headerCode1, headerCode2, atPadding_iff]

/-- No byte of SRC_LEN is left for the header (R272). -/
theorem State.decodeRecordStep_of_srcLen_eq_zero {s : State} (h0 : s.regs.srcLen.toNat = 0) :
    s.decodeRecordStep = .next (s.raise .underflow) := if_pos h0

/-- The header is covered by SRC_LEN but not on BIN (R391). -/
theorem State.decodeRecordStep_of_bin_nil {s : State} (h1 : 1 ≤ s.regs.srcLen.toNat) (hbin : s.ports.bin = []) :
    s.decodeRecordStep = .next s := by
  have h0 : s.regs.srcLen.toNat ≠ 0 := by omega
  simp only [decodeRecordStep, if_neg h0, hbin]

/-- The header is there: what remains are the two checks of the body (R272, R273). -/
theorem State.decodeRecordStep_of_bin_cons {s : State} {h : Byte} {body : List Byte} (h1 : 1 ≤ s.regs.srcLen.toNat)
    (hbin : s.ports.bin = h :: body) :
    s.decodeRecordStep =
      if s.regs.srcLen.toNat - 1 < bodyLength h s.atPadding then .next ((s.takeBin 1).raise .underflow)
      else if body.length < bodyLength h s.atPadding then .next s
      else runRecord h s.atPadding (s.takeBin 1) := by
  have h0 : s.regs.srcLen.toNat ≠ 0 := by omega
  simp only [decodeRecordStep, if_neg h0, hbin]

/-- SRC_LEN does not cover the body (R273). -/
theorem State.decodeRecordStep_underflow {s : State} {h : Byte} {body : List Byte} (h1 : 1 ≤ s.regs.srcLen.toNat)
    (hbin : s.ports.bin = h :: body) (hshort : s.regs.srcLen.toNat - 1 < bodyLength h s.atPadding) :
    s.decodeRecordStep = .next ((s.takeBin 1).raise .underflow) := by
  rw [decodeRecordStep_of_bin_cons h1 hbin, if_pos hshort]

/-- SRC_LEN covers the body, BIN does not hold it (R391). -/
theorem State.decodeRecordStep_waits {s : State} {h : Byte} {body : List Byte} (hbin : s.ports.bin = h :: body)
    (hlen : bodyLength h s.atPadding + 1 ≤ s.regs.srcLen.toNat) (hbody : body.length < bodyLength h s.atPadding) :
    s.decodeRecordStep = .next s := by
  rw [decodeRecordStep_of_bin_cons (by omega) hbin, if_neg (by omega), if_pos hbody]

/-- The whole record is there (R274 to R276). -/
theorem State.decodeRecordStep_runs {s : State} {h : Byte} {body : List Byte} (hbin : s.ports.bin = h :: body)
    (hlen : bodyLength h s.atPadding + 1 ≤ s.regs.srcLen.toNat) (hbody : bodyLength h s.atPadding ≤ body.length) :
    s.decodeRecordStep = runRecord h s.atPadding (s.takeBin 1) := by
  rw [decodeRecordStep_of_bin_cons (by omega) hbin, if_neg (by omega), if_neg hbody.not_gt]

/-! ### The halves of a header -/

theorem nibbleEngine_packHeader_slot1 (e1 : Engine) (c1 : BitVec 3) (e2 : Engine) (c2 : BitVec 3) :
    nibbleEngine ((packHeader e1 c1 e2 c2).extractLsb' 4 4) = e1 := by
  cases e1 <;> cases e2 <;> revert c1 c2 <;> decide

theorem nibbleEngine_packHeader_slot2 (e1 : Engine) (c1 : BitVec 3) (e2 : Engine) (c2 : BitVec 3) :
    nibbleEngine ((packHeader e1 c1 e2 c2).extractLsb' 0 4) = e2 := by
  cases e1 <;> cases e2 <;> revert c1 c2 <;> decide

theorem headerCode1_packHeader (e1 : Engine) (c1 : BitVec 3) (e2 : Engine) (c2 : BitVec 3) :
    headerCode1 (packHeader e1 c1 e2 c2) = c1 := by
  cases e1 <;> cases e2 <;> revert c1 c2 <;> decide

theorem headerCode2_packHeader (e1 : Engine) (c1 : BitVec 3) (e2 : Engine) (c2 : BitVec 3) :
    headerCode2 (packHeader e1 c1 e2 c2) = c2 := by
  cases e1 <;> cases e2 <;> revert c1 c2 <;> decide

/-- The body a packed header asks for. -/
theorem bodyLength_packHeader (e1 : Engine) (c1 : BitVec 3) (e2 : Engine) (c2 : BitVec 3) (pad : Bool) :
    bodyLength (packHeader e1 c1 e2 c2) pad = nbytes c1 + nbytes c2 + (if pad then 1 else 0) := by
  rw [bodyLength, headerCode1_packHeader, headerCode2_packHeader]

/-- The record of a packed header runs its two halves and, in a padding record, the terminator (R274 to R276). -/
theorem runRecord_packHeader (e1 : Engine) (c1 : BitVec 3) (e2 : Engine) (c2 : BitVec 3) (pad : Bool) (s : State) :
    runRecord (packHeader e1 c1 e2 c2) pad s = .next
      (if pad then (((s.runHalf e1 c1).runHalf e2 c2).parse 1 fun u => u).mark
       else ((s.runHalf e1 c1).runHalf e2 c2).mark) := by
  rw [runRecord_eq, nibbleEngine_packHeader_slot1, nibbleEngine_packHeader_slot2, headerCode1_packHeader,
    headerCode2_packHeader]

/-! ### The two kinds of record -/

/-- The header popped, slot 1 of a record whose payload 1 is on BIN reads one value (R274). -/
theorem State.takeBin_runHalf {s : State} {h : Byte} {e : Engine} {c : BitVec 3} {payload rest : List Byte} {a : Word}
    {p : Predictor} (hact : s.seq.act = .decode) (hv : s.regs.values.toNat < s.seq.n.toNat)
    (hbin : s.ports.bin = h :: (payload ++ rest)) (hpayload : payload.length = nbytes c)
    (hlen : 1 + nbytes c ≤ s.regs.srcLen.toNat) (hd : decHalf s.hashes s.pred e payload = (a, p)) :
    (s.takeBin 1).runHalf e c = s.afterReading (1 + nbytes c) p rest [a] := by
  have hbin' : (s.takeBin 1).ports.bin = payload ++ rest := by rw [takeBin_ports, hbin, List.drop_one, List.tail_cons]
  have hlen' : nbytes c ≤ (s.takeBin 1).regs.srcLen.toNat := by rw [takeBin_srcLen_toNat] <;> omega
  rw [runHalf_eq_afterReading (s := s.takeBin 1) hact hv hbin' hpayload hlen' hd, takeBin_afterReading]

/-- A full record step reads two values, the second under the predictor state the first leaves (R275, R277). -/
theorem State.blockStep_readsFullRecord {s : State} {e1 e2 : Engine} {c1 c2 : BitVec 3} {P1 P2 rest : List Byte}
    {a1 a2 : Word} {p1 p2 : Predictor} (hact : s.seq.act = .decode) (hn : s.regs.values.toNat + 2 ≤ s.seq.n.toNat)
    (hbin : s.ports.bin = packHeader e1 c1 e2 c2 :: (P1 ++ P2 ++ rest))
    (hP1 : P1.length = nbytes c1) (hP2 : P2.length = nbytes c2)
    (hlen : 1 + nbytes c1 + nbytes c2 ≤ s.regs.srcLen.toNat)
    (hd1 : decHalf s.hashes s.pred e1 P1 = (a1, p1)) (hd2 : decHalf s.hashes p1 e2 P2 = (a2, p2)) :
    s.blockStep = .next (s.afterReading (1 + nbytes c1 + nbytes c2) p2 rest [a1, a2]).mark := by
  have hpad : s.atPadding = false := by
    rw [← Bool.not_eq_true, atPadding_iff]
    omega
  have hbody : bodyLength (packHeader e1 c1 e2 c2) s.atPadding = nbytes c1 + nbytes c2 := by
    simp [bodyLength_packHeader, hpad]
  set t := s.afterReading (1 + nbytes c1) p1 (P2 ++ rest) [a1] with ht
  have hslot1 : (s.takeBin 1).runHalf e1 c1 = t :=
    takeBin_runHalf hact (by omega) (by rw [hbin, List.append_assoc]) hP1 (by omega) hd1
  have hvalues : t.regs.values.toNat = s.regs.values.toNat + 1 :=
    afterReading_values_toNat (vs := [a1]) (Nat.le_of_succ_le hn) _ _ _
  have hsrcLen : t.regs.srcLen.toNat = s.regs.srcLen.toNat - (1 + nbytes c1) :=
    afterReading_srcLen_toNat (by omega) _ _ _
  have hslot2 : t.runHalf e2 c2 = s.afterReading (1 + nbytes c1 + nbytes c2) p2 rest [a1, a2] := by
    rw [runHalf_eq_afterReading (s := t) hact (hvalues.trans_lt hn) rfl hP2 (by omega) hd2, ht,
      afterReading_afterReading]
    rfl
  rw [blockStep_decodeRecordStep hact (by omega), decodeRecordStep_runs hbin (by omega), runRecord_packHeader, hpad,
    hslot1, hslot2]
  · rfl
  · rw [hbody, List.length_append, List.length_append]
    omega

/-- A padding record step reads one value; the synthetic payload and the terminator are bytes popped (R276, R279). -/
theorem State.blockStep_readsPaddingRecord {s : State} {e1 e2 : Engine} {c1 c2 : BitVec 3} {P1 P2 rest : List Byte}
    {terminator : Byte} {a1 : Word} {p1 : Predictor} (hact : s.seq.act = .decode)
    (hn : s.regs.values.toNat + 1 = s.seq.n.toNat)
    (hbin : s.ports.bin = packHeader e1 c1 e2 c2 :: (P1 ++ P2 ++ terminator :: rest))
    (hP1 : P1.length = nbytes c1) (hP2 : P2.length = nbytes c2)
    (hlen : 2 + nbytes c1 + nbytes c2 ≤ s.regs.srcLen.toNat) (hd1 : decHalf s.hashes s.pred e1 P1 = (a1, p1)) :
    s.blockStep = .next (s.afterReading (2 + nbytes c1 + nbytes c2) p1 rest [a1]).mark := by
  have hpad : s.atPadding = true := s.atPadding_iff.mpr hn
  have hbody : bodyLength (packHeader e1 c1 e2 c2) s.atPadding = nbytes c1 + nbytes c2 + 1 := by
    simp [bodyLength_packHeader, hpad]
  set t := s.afterReading (1 + nbytes c1) p1 (P2 ++ terminator :: rest) [a1] with ht
  have hslot1 : (s.takeBin 1).runHalf e1 c1 = t :=
    takeBin_runHalf hact (by omega) (by rw [hbin, List.append_assoc]) hP1 (by omega) hd1
  have hvalues : t.regs.values.toNat = s.regs.values.toNat + 1 :=
    afterReading_values_toNat (vs := [a1]) hn.le _ _ _
  have hsrcLen : t.regs.srcLen.toNat = s.regs.srcLen.toNat - (1 + nbytes c1) :=
    afterReading_srcLen_toNat (by omega) _ _ _
  set u := s.afterReading (1 + nbytes c1 + nbytes c2) p1 ([terminator] ++ rest) [a1] with hu
  have hslot2 : t.runHalf e2 c2 = u := by
    rw [runHalf_synthetic_of_bin_append (s := t) e2 hact (hvalues.trans hn).ge rfl hP2 (by omega), ht,
      afterReading_takeBin hP2]
    rfl
  have hterm : (u.parse 1 fun v => v) = s.afterReading (2 + nbytes c1 + nbytes c2) p1 rest [a1] := by
    have hone : 1 ≤ u.regs.srcLen.toNat := by rw [hu, afterReading_srcLen_toNat] <;> omega
    rw [parse_term (s := u) hact hone (Nat.le_add_left 1 rest.length), hu, afterReading_takeBin List.length_singleton]
    congr 1
    omega
  rw [blockStep_decodeRecordStep hact (by omega), decodeRecordStep_runs hbin (by omega), runRecord_packHeader, hpad,
    hslot1, hslot2, if_pos rfl, hterm]
  rw [hbody, List.length_append, List.length_append, List.length_cons]
  omega

end Sys2Proof.Machine

namespace Sys2Proof.Proofs

open Sys2Proof.Machine Sys2Proof.Stated

/-- Settles O37: the header is popped before the body is checked. -/
theorem decodeUnderflowsAtTheBody : Obligations.DecodeUnderflowsAtTheBody := by
  unfold Obligations.DecodeUnderflowsAtTheBody
  intro s h body hact hv hbin h1 hshort
  rw [← State.bodyLength_atPadding] at hshort
  rw [State.blockStep_decodeRecordStep hact hv, State.decodeRecordStep_underflow h1 hbin hshort,
    State.takeBin_of_bin_append (popped := [h]) (k := 1) hbin rfl]
  rfl

/-- Settles O38: a full record reads its two values in order. -/
theorem decodeReadsAFullRecord : Obligations.DecodeReadsAFullRecord := by
  unfold Obligations.DecodeReadsAFullRecord
  intro s e1 e2 c1 c2 P1 P2 rest len d1 d2 regs hact hn hbin hP1 hP2 hlen
  rw [ofNat_headerNumber] at hbin
  exact State.blockStep_readsFullRecord hact hn hbin hP1 hP2 hlen rfl rfl

/-- Settles O39: a padding record reads one value and pops the rest of its bytes. -/
theorem decodeReadsAPaddingRecord : Obligations.DecodeReadsAPaddingRecord := by
  unfold Obligations.DecodeReadsAPaddingRecord
  intro s e1 e2 c1 c2 P1 P2 rest terminator len d1 regs hact hn hbin hP1 hP2 hlen
  rw [ofNat_headerNumber] at hbin
  exact State.blockStep_readsPaddingRecord hact hn hbin hP1 hP2 hlen rfl

/-- Settles O40: the header is missing, or a byte of the body it asks for. -/
theorem decodeWaitsForItsBytes : Obligations.DecodeWaitsForItsBytes := by
  unfold Obligations.DecodeWaitsForItsBytes
  intro s hact hv h1
  rw [State.blockStep_decodeRecordStep hact hv]
  refine ⟨State.decodeRecordStep_of_bin_nil h1, fun h body hbin hlen hbody => ?_⟩
  rw [← State.bodyLength_atPadding] at hlen hbody
  exact State.decodeRecordStep_waits hbin hlen hbody

/-- Settles O42: every half runs with the code of its four bits, and its slot is the synthetic one. -/
theorem halfInTheSyntheticSlotIsSkipped : Obligations.HalfInTheSyntheticSlotIsSkipped := by
  unfold Obligations.HalfInTheSyntheticSlotIsSkipped
  intro row hrow s payload rest hact hv hbin hpayload hlen
  obtain ⟨-, hnbytes⟩ := nibble_of_mem_halfRows row hrow
  have hskip := State.runHalf_synthetic_of_bin_append (nibbleEngine row.1.opBits) hact
    (congrArg BitVec.toNat hv).ge hbin (hpayload.trans hnbytes.symm) (by omega)
  rw [exec_of_slot2 (format_of_mem_halfRows row hrow), hskip, hnbytes, State.takeBin_of_bin_append hbin hpayload]

/-- Settles O7: with the whole record there both checks of the body pass, and its parts run in order. -/
theorem stepRunsTheHalvesFetched : Obligations.StepRunsTheHalvesFetched := by
  unfold Obligations.StepRunsTheHalvesFetched
  intro s h body i1 i2 hact hv hturns hbin hslot1 hslot2 hbody hlen
  obtain ⟨rfl, -⟩ := Prod.mk.inj (Except.ok.inj hslot1)
  obtain ⟨rfl, -⟩ := Prod.mk.inj (Except.ok.inj hslot2)
  rw [step_of_turns_nil hturns, State.blockStep_decodeRecordStep hact hv, State.decodeRecordStep_runs hbin hlen hbody,
    runRecord]
  simp only [andThen_assoc, andThen_next]

/-- Settles O29: an idle block accepts, and the prologue keeps CONFIGURED. -/
theorem decodeStartsUnderAnInstance : Obligations.DecodeStartsUnderAnInstance := by
  unfold Obligations.DecodeStartsUnderAnInstance
  intro s hidle hc
  have hc' : (s.prologue 3#4).pred.configured = true := hc
  rw [exec_decode, State.accept_idle _ hidle, State.startUnderInstance_of_configured hc']
  rfl

/-- Settles O36: nothing is popped before the check of SRC_LEN. -/
theorem decodeUnderflowsAtTheHeader : Obligations.DecodeUnderflowsAtTheHeader := by
  unfold Obligations.DecodeUnderflowsAtTheHeader
  intro s hact hv h0
  rw [State.blockStep_decodeRecordStep hact hv, State.decodeRecordStep_of_srcLen_eq_zero (congrArg BitVec.toNat h0)]
  rfl

/-- Settles O43: the byte popped is the one at the head of BIN. -/
theorem termDiscardsOneByte : Obligations.TermDiscardsOneByte := by
  unfold Obligations.TermDiscardsOneByte
  intro s b rest hact hbin hlen
  have hthere : 1 ≤ s.ports.bin.length := hbin ▸ Nat.le_add_left 1 rest.length
  rw [exec_term, State.parse_term hact hlen hthere, State.takeBin_of_bin_append (popped := [b]) (k := 1) hbin rfl]
  rfl

end Sys2Proof.Proofs

/-! # The round trip of a command

ENCODE and DECODE, run by the block alone, are compared through the bytes `Predictor.commandBytes` the records of a list
of values have: ENCODE pushes them, and DECODE of them reads the values. -/

namespace Sys2Proof.Machine

open Sys2Proof.Stated

/-! ### The bytes of a command -/

/-- The predictor state after both engines observed each value in turn (R190). -/
def Predictor.observeAll (H : Config.Hashes) (p : Predictor) (xs : List Word) : Predictor :=
  xs.foldl (fun q a => q.observe H a) p

theorem Predictor.observeAll_append (H : Config.Hashes) (p : Predictor) (xs ys : List Word) :
    p.observeAll H (xs ++ ys) = (p.observeAll H xs).observeAll H ys := List.foldl_append

/-- The bytes of the records of `xs`: a full record for each two values, a padding record for a last single one, each
under the predictor state the records before it leave (R241 to R243). -/
def Predictor.commandBytes (H : Config.Hashes) (p : Predictor) : List Word → List Byte
  | [] => []
  | [a] => p.paddingRecordBytes a
  | a1 :: a2 :: xs => p.fullRecordBytes H a1 a2 ++ (p.observeAll H [a1, a2]).commandBytes H xs

theorem recordCount_one : recordCount 1 = 1 := rfl

/-- Two values take one record more (R241). -/
theorem recordCount_add_two (n : Nat) : recordCount (n + 2) = recordCount n + 1 := by
  unfold recordCount
  omega

/-! ### The block alone -/

theorem step_of_blockStep {s t : State} (hturns : s.env.turns = []) (h : s.blockStep = .next t) :
    step s = .next t.settleIrq := by
  rw [step_of_turns_nil hturns, h, andThen_next]

theorem run_succ_of_step {s t : State} (h : step s = .next t) (k : Nat) :
    Host.Core.run core (k + 1) s = Host.Core.run core k t := by
  have hstep : core.step s = .next t := h
  simp only [Host.Core.run, hstep]

theorem State.blockStep_of_idle {s : State} (hact : s.seq.act = .idle) : s.blockStep = .next s := by
  simp [State.blockStep, hact]

/-- An idle block left alone never sets DONE. -/
theorem run_idle_done {k : Nat} {s t : State} (hrun : Host.Core.run core k s = .next t) (hact : s.seq.act = .idle)
    (hturns : s.env.turns = []) : t.regs.done = s.regs.done := by
  induction k generalizing s with
  | zero => rw [← Host.Outcome.next.inj hrun]
  | succ k ih =>
    rw [run_succ_of_step (step_of_blockStep hturns (State.blockStep_of_idle hact))] at hrun
    exact ih (s := s.settleIrq) hrun hact hturns

/-- At N a command left alone takes one step, its end (R246, R278). -/
theorem run_complete {s : State} (hact : s.seq.act = .encode ∨ s.seq.act = .decode) (hturns : s.env.turns = [])
    (hn : s.seq.n.toNat ≤ s.regs.values.toNat) :
    Host.Core.run core 1 s = .next s.complete.settleIrq :=
  run_succ_of_step (step_of_blockStep hturns (State.blockStep_of_n_le_values hact hn)) 0

/-! ### ENCODE alone -/

/-- The block runs ENCODE alone, with `xs` left to encode and `tail` after them on VIN. -/
structure State.Encoding (s : State) (xs tail : List Word) : Prop where
  act : s.seq.act = .encode
  turns : s.env.turns = []
  doneClear : s.regs.done = false
  position : s.regs.values.toNat + xs.length = s.seq.n.toNat
  vin : s.ports.vin = xs ++ tail

/-- A record step of an ENCODE that will end with DONE pushed its whole record: after CapacityExhausted the block would
stay idle with DONE = 0 (R244, R340). -/
theorem State.Encoding.afterRecord {s e' : State} {as xs tail : List Word} {record : List Byte} {k : Nat}
    (hs : s.Encoding (as ++ xs) tail)
    (hblock : s.blockStep = .next
      ((s.afterObserving (s.pred.observeAll s.hashes as) (xs ++ tail)).emitRecord record as.length))
    (hrun : Host.Core.run core (k + 1) s = .next e') (hdone : e'.regs.done = true) :
    ∃ t : State, t.Encoding xs tail ∧ t.pred = s.pred.observeAll s.hashes as ∧ t.hashes = s.hashes
      ∧ t.ports.bout = s.ports.bout ++ record ∧ Host.Core.run core k t = .next e' := by
  rw [run_succ_of_step (step_of_blockStep hs.turns hblock)] at hrun
  have hposition : s.regs.values.toNat + as.length + xs.length = s.seq.n.toNat := by
    rw [← hs.position, List.length_append, Nat.add_assoc]
  have hvalues : (s.regs.values + BitVec.ofNat 64 as.length).toNat = s.regs.values.toNat + as.length := by
    have hlt := s.seq.n.isLt
    rw [BitVec.toNat_add, BitVec.toNat_ofNat]
    omega
  rcases State.emitRecord_cases _ record as.length with ⟨-, e⟩ | ⟨-, e⟩ <;> rw [e] at hrun
  · have hclear : e'.regs.done = false := (run_idle_done hrun rfl hs.turns).trans hs.doneClear
    exact absurd (hdone.symm.trans hclear) (by decide)
  · refine ⟨_, ?left, ?pred, ?hashes, ?bout, hrun⟩
    case left => exact ⟨hs.act, hs.turns, hs.doneClear, (congrArg (· + xs.length) hvalues).trans hposition, rfl⟩
    all_goals rfl

/-- An ENCODE that ends with DONE has pushed the bytes of its values' records and observed the values (R242, R243). -/
theorem State.Encoding.run {xs tail : List Word} {s e' : State} (hs : s.Encoding xs tail)
    (hrun : Host.Core.run core (recordCount xs.length + 1) s = .next e') (hdone : e'.regs.done = true) :
    e'.ports.bout = s.ports.bout ++ s.pred.commandBytes s.hashes xs ∧ e'.ports.vin = tail
      ∧ e'.pred = s.pred.observeAll s.hashes xs := by
  induction xs using List.twoStepInduction generalizing s with
  | nil =>
    have hend := run_complete (.inl hs.act) hs.turns hs.position.ge
    obtain rfl := Host.Outcome.next.inj (hend.symm.trans hrun)
    exact ⟨(List.append_nil _).symm, hs.vin, rfl⟩
  | singleton a =>
    have hblock := State.blockStep_paddingRecord hs.act hs.position hs.vin
    rw [List.length_singleton, recordCount_one] at hrun
    obtain ⟨t, ht, hpred, -, hbout, hrun⟩ := State.Encoding.afterRecord (as := [a]) (xs := []) hs hblock hrun hdone
    have hend := run_complete (.inl ht.act) ht.turns ht.position.ge
    obtain rfl := Host.Outcome.next.inj (hend.symm.trans hrun)
    exact ⟨hbout, ht.vin, hpred⟩
  | cons_cons a1 a2 xs ih _ =>
    have hn : s.regs.values.toNat + 2 ≤ s.seq.n.toNat := by
      rw [← hs.position, List.length_cons, List.length_cons]
      omega
    have hblock := State.blockStep_fullRecord hs.act hn hs.vin
    rw [List.length_cons, List.length_cons, recordCount_add_two] at hrun
    obtain ⟨t, ht, hpred, hhashes, hbout, hrun⟩ :=
      State.Encoding.afterRecord (as := [a1, a2]) (xs := xs) hs hblock hrun hdone
    obtain ⟨hbout', hvin, hpred'⟩ := ih ht hrun
    rw [hbout, hpred, hhashes, List.append_assoc] at hbout'
    rw [hpred, hhashes] at hpred'
    exact ⟨hbout', hvin, hpred'⟩

/-! ### DECODE alone -/

/-- A full record that ENCODE wrote is read back: its values, its length, its observations (R281). -/
theorem State.blockStep_readsBackFullRecord {s : State} {a1 a2 : Word} {rest : List Byte} (hact : s.seq.act = .decode)
    (hn : s.regs.values.toNat + 2 ≤ s.seq.n.toNat)
    (hbin : s.ports.bin = s.pred.fullRecordBytes s.hashes a1 a2 ++ rest)
    (hlen : (s.pred.fullRecordBytes s.hashes a1 a2).length ≤ s.regs.srcLen.toNat) :
    s.blockStep = .next (s.afterReading (s.pred.fullRecordBytes s.hashes a1 a2).length
      (s.pred.observeAll s.hashes [a1, a2]) rest [a1, a2]).mark := by
  rw [Predictor.fullRecordBytes_length, Predictor.halfOf_payload_length, Predictor.halfOf_payload_length] at hlen ⊢
  rw [Predictor.fullRecordBytes, ofNat_headerNumber] at hbin
  exact blockStep_readsFullRecord hact hn hbin (Predictor.halfOf_payload_length _ _)
    (Predictor.halfOf_payload_length _ _) hlen (decHalf_halfOf _ _ _) (decHalf_halfOf _ _ _)

/-- A padding record that ENCODE wrote is read back (R281). -/
theorem State.blockStep_readsBackPaddingRecord {s : State} {a1 : Word} {rest : List Byte} (hact : s.seq.act = .decode)
    (hn : s.regs.values.toNat + 1 = s.seq.n.toNat) (hbin : s.ports.bin = s.pred.paddingRecordBytes a1 ++ rest)
    (hlen : (s.pred.paddingRecordBytes a1).length ≤ s.regs.srcLen.toNat) :
    s.blockStep = .next (s.afterReading (s.pred.paddingRecordBytes a1).length
      (s.pred.observeAll s.hashes [a1]) rest [a1]).mark := by
  have hlength : (s.pred.paddingRecordBytes a1).length = 2 + nbytes (s.pred.halfOf a1).code + nbytes 7#3 := by
    rw [Predictor.paddingRecordBytes_length, Predictor.halfOf_payload_length]
    rfl
  rw [hlength] at hlen ⊢
  rw [Predictor.paddingRecordBytes, ofNat_headerNumber] at hbin
  refine blockStep_readsPaddingRecord (e2 := .fcm) (P2 := []) (terminator := 0x00) hact hn ?_
    (Predictor.halfOf_payload_length _ _) rfl hlen (decHalf_halfOf _ _ _)
  rw [hbin, List.append_nil, List.cons_append, List.append_assoc, List.singleton_append]
  rfl

/-- The block runs DECODE alone, with the bytes of `xs` at the head of BIN and covered by SRC_LEN. -/
structure State.Decoding (s : State) (xs : List Word) (rest : List Byte) : Prop where
  act : s.seq.act = .decode
  turns : s.env.turns = []
  position : s.regs.values.toNat + xs.length = s.seq.n.toNat
  bin : s.ports.bin = s.pred.commandBytes s.hashes xs ++ rest
  covered : (s.pred.commandBytes s.hashes xs).length ≤ s.regs.srcLen.toNat

/-- `t` is `s` completed, up to `irq` and the model's own fields (R278). -/
structure State.CompletedAs (s t : State) : Prop where
  pred : t.pred = s.pred
  regs : t.regs = { s.regs with done := true }
  seq : t.seq = { s.seq with act := .idle }
  ports : t.ports = s.ports

/-- DECODE, run alone for the records of `xs` and its end, reads exactly their bytes and exactly `xs`. -/
def State.DecodesTo (s : State) (xs : List Word) (rest : List Byte) : Prop :=
  ∃ d' : State, Host.Core.run core (recordCount xs.length + 1) s = .next d'
    ∧ (s.afterReading (s.pred.commandBytes s.hashes xs).length (s.pred.observeAll s.hashes xs) rest xs).CompletedAs d'

/-- With no value left DECODE ends and reads nothing. -/
theorem State.Decoding.decodesTo_nil {s : State} {rest : List Byte} (hs : s.Decoding [] rest) :
    s.DecodesTo [] rest := by
  refine ⟨_, run_complete (.inr hs.act) hs.turns hs.position.ge, ?_⟩
  have hbin : s.ports.bin = rest := hs.bin
  have hnothing : s.afterReading (s.pred.commandBytes s.hashes []).length (s.pred.observeAll s.hashes []) rest []
      = s := by
    rw [← hbin]
    exact s.afterReading_zero
  rw [hnothing]
  exact ⟨rfl, rfl, rfl, rfl⟩

/-- A record read is a record less to read: the step leaves the bytes of the other values, and what is read from there
on adds up. -/
theorem State.Decoding.decodesTo_append {s : State} {as xs : List Word} {record rest : List Byte}
    (hs : s.Decoding (as ++ xs) rest) (hcount : recordCount (as ++ xs).length = recordCount xs.length + 1)
    (hbytes : s.pred.commandBytes s.hashes (as ++ xs)
      = record ++ (s.pred.observeAll s.hashes as).commandBytes s.hashes xs)
    (hblock : s.blockStep = .next (s.afterReading record.length (s.pred.observeAll s.hashes as)
      ((s.pred.observeAll s.hashes as).commandBytes s.hashes xs ++ rest) as).mark)
    (ih : ∀ t : State, t.Decoding xs rest → t.DecodesTo xs rest) : s.DecodesTo (as ++ xs) rest := by
  set p := s.pred.observeAll s.hashes as with hp
  set t := s.afterReading record.length p (p.commandBytes s.hashes xs ++ rest) as with ht
  have hposition : s.regs.values.toNat + as.length + xs.length = s.seq.n.toNat := by
    rw [← hs.position, List.length_append, Nat.add_assoc]
  have hcovered : record.length + (p.commandBytes s.hashes xs).length ≤ s.regs.srcLen.toNat := by
    rw [← List.length_append, ← hbytes]
    exact hs.covered
  have hvalues : t.regs.values.toNat = s.regs.values.toNat + as.length := afterReading_values_toNat (by omega) _ _ _
  have hsrcLen : t.regs.srcLen.toNat = s.regs.srcLen.toNat - record.length :=
    afterReading_srcLen_toNat (by omega) _ _ _
  have hnext : t.mark.settleIrq.Decoding xs rest :=
    ⟨hs.act, hs.turns, (congrArg (· + xs.length) hvalues).trans hposition, rfl,
      (Nat.le_sub_of_add_le' hcovered).trans_eq hsrcLen.symm⟩
  obtain ⟨d', hrun, hpred, hregs, hseq, hports⟩ := ih _ hnext
  refine ⟨d', ?_, ?_⟩
  · rw [hcount, run_succ_of_step (step_of_blockStep hs.turns hblock), hrun]
  · rw [hbytes, List.length_append, Predictor.observeAll_append,
      ← s.afterReading_afterReading record.length _ p _ (p.commandBytes s.hashes xs ++ rest)]
    exact ⟨hpred, hregs, hseq, hports⟩

/-- DECODE of the bytes of `xs` reads `xs` (R281). -/
theorem State.Decoding.decodesTo {xs : List Word} {s : State} {rest : List Byte} (hs : s.Decoding xs rest) :
    s.DecodesTo xs rest := by
  induction xs using List.twoStepInduction generalizing s with
  | nil => exact hs.decodesTo_nil
  | singleton a =>
    refine State.Decoding.decodesTo_append (as := [a]) (xs := []) hs recordCount_one (List.append_nil _).symm ?_
      fun _ ht => ht.decodesTo_nil
    exact State.blockStep_readsBackPaddingRecord hs.act hs.position hs.bin hs.covered
  | cons_cons a1 a2 xs ih _ =>
    have hn : s.regs.values.toNat + 2 ≤ s.seq.n.toNat := by
      rw [← hs.position, List.length_cons, List.length_cons]
      omega
    have hbin := hs.bin
    have hcovered := hs.covered
    rw [Predictor.commandBytes, List.append_assoc] at hbin
    rw [Predictor.commandBytes, List.length_append] at hcovered
    exact State.Decoding.decodesTo_append (as := [a1, a2]) (xs := xs) hs (recordCount_add_two _) rfl
      (State.blockStep_readsBackFullRecord hs.act hn hbin (by omega)) fun _ ht => ih ht

end Sys2Proof.Machine

namespace Sys2Proof.Proofs

open Sys2Proof.Machine Sys2Proof.Stated

/-- Settles O60: the bytes ENCODE pushed are those of its values' records, and DECODE of these reads the values. -/
theorem commandRoundTrip : Obligations.CommandRoundTrip := by
  unfold Obligations.CommandRoundTrip
  intro xs tail e e' hact hn hvalues hdone hvin hturns hrun hdone'
  have hencoding : e.Encoding xs tail := ⟨hact, hturns, hdone, by simp [hvalues, hn], hvin⟩
  obtain ⟨hbout, htail, hpred⟩ := hencoding.run hrun hdone'
  refine ⟨e.pred.commandBytes e.hashes xs, hbout, htail, ?_⟩
  intro d rest hdact hdn hdvalues hdbytes hdpred hmixing hdturns hbin hcovered
  have hhashes : d.hashes = e.hashes := congrArg mixingHashes hmixing
  rw [← hdpred, ← hhashes] at hbin hcovered hpred ⊢
  have hdecoding : d.Decoding xs rest := ⟨hdact, hdturns, by simp [hdvalues, hdn, hn], hbin, hcovered⟩
  obtain ⟨d', hdrun, hdpred', hregs, hseq, hports⟩ := hdecoding.decodesTo
  have hB := hcovered.trans_lt d.regs.srcLen.isLt
  refine ⟨d', hdrun, ?vout, ?bin, ?busy, ?done, hdpred'.trans hpred.symm, ?values, ?bytes, ?srcLen⟩
  case vout => rw [hports, State.afterReading]
  case bin => rw [hports, State.afterReading]
  case busy => rw [State.not_busy_iff, hseq]
  case done => rw [hregs]
  case values =>
    rw [hregs, State.afterReading, hdvalues, hdn, ← hn, BitVec.ofNat_toNat]
    simp
  case bytes =>
    rw [hregs, State.afterReading, hdbytes, BitVec.toNat_add, BitVec.toNat_ofNat]
    simp [Nat.mod_eq_of_lt hB]
  case srcLen =>
    rw [hregs, State.afterReading_srcLen_toNat hcovered, Nat.sub_add_cancel hcovered]

end Sys2Proof.Proofs

/-! # Commands and the register window -/

namespace Sys2Proof.Machine

/-! ### What every command does -/

/-- Every command row is accepted or ignored as a whole (R300). -/
theorem exec_eq_accept_of_cmd {i : Instr} (h : i.format = .cmd) : ∃ run, ∀ s, exec i s = .next (s.accept run) := by
  cases i
  case nop | config | encode | decode | reserved47 | reserved8F => exact ⟨_, fun _ => rfl⟩
  all_goals cases h

/-- A running command keeps every other from starting (R300, R311). -/
theorem exec_of_busy {i : Instr} {s : State} (h : i.format = .cmd) (hb : s.busy = true) : exec i s = .next s := by
  obtain ⟨run, hrun⟩ := exec_eq_accept_of_cmd h
  rw [hrun, State.accept_busy run hb]

/-- A CMD word holds a command, whatever its OP (R141, R142). -/
theorem format_decodeCmd (w : Word) : (decodeCmd w).format = .cmd := by
  unfold decodeCmd decodeOp
  split <;> rfl

theorem exec_nop (s : State) : exec .nop s = .next (s.accept fun s => s) := rfl

theorem exec_config (s : State) :
    exec .config s = .next (s.accept fun s => ((s.prologue 1#4).withAct .config).configStep) := rfl

theorem exec_reserved47 (op : BitVec 4) (s : State) :
    exec (.reserved47 op) s = .next (s.accept fun s => s.illegalCommand op) := rfl

theorem exec_reserved8F (op : BitVec 4) (s : State) :
    exec (.reserved8F op) s = .next (s.accept fun s => s.illegalCommand op) := rfl

/-! ### Commands that end at once

Such a command leaves the sequencer as the idle block had it (R70). -/

theorem State.seq_of_idle {s : State} (hb : s.busy = false) : { s.seq with act := .idle } = s.seq := by
  rw [← (State.not_busy_iff s).mp hb]

/-- An error of an idle block: the sequencer has nothing to stop (R340). -/
theorem State.raise_of_idle {s : State} (hb : s.busy = false) (e : BlockError) :
    s.raise e = { s with
      regs := s.regs.setError e
      pred := if endsInstance e then { s.pred with configured := false, lsz := 0 } else s.pred
      env := { s.env with marks := [] } } := by
  rw [State.raise, State.seq_of_idle hb]

theorem State.complete_of_idle {s : State} (hb : s.busy = false) :
    s.complete = { s with regs := { s.regs with done := true }, env := { s.env with marks := [] } } := by
  rw [State.complete, State.seq_of_idle hb]

/-- IllegalCommand is no fatal error (R334, R340). -/
theorem State.illegalCommand_of_idle {s : State} (hb : s.busy = false) (op : BitVec 4) :
    s.illegalCommand op = { s with
      regs := { s.regs with done := false, err := true, errCode := 4, lastOp := op }
      env := { s.env with marks := [] } } :=
  State.raise_of_idle (s := s.prologue op) hb .illegalCommand

theorem State.configStep_of_illegal {s : State}
    (h : s.regs.logSize.toNat = 0 ∨ s.build.logSizeMax < s.regs.logSize.toNat) :
    s.configStep = s.raise .configuration := if_pos h

theorem State.configStep_of_legal {s : State} (h1 : 1 ≤ s.regs.logSize.toNat)
    (hmax : s.regs.logSize.toNat ≤ s.build.logSizeMax) :
    s.configStep = { s with pred := s.pred.fresh s.regs.logSize }.complete := if_neg (by omega)

/-- CONFIG with a legal log size, as one equation of the whole state (R303). -/
theorem exec_config_of_legal {s : State} (hb : s.busy = false) (h1 : 1 ≤ s.regs.logSize.toNat)
    (hmax : s.regs.logSize.toNat ≤ s.build.logSizeMax) :
    exec .config s = .next { s with
      pred := s.pred.fresh s.regs.logSize
      regs := { s.regs with done := true, err := false, errCode := 0, lastOp := 1 }
      env := { s.env with marks := [] } } := by
  have hstep := State.configStep_of_legal (s := (s.prologue 1).withAct .config) h1 hmax
  have hend := State.complete_of_idle (s := { s.prologue 1 with pred := s.pred.fresh s.regs.logSize }) hb
  rw [exec_config, State.accept_idle _ hb]
  exact congrArg _ (hstep.trans hend)

/-- CONFIG with an illegal log size, as one equation of the whole state (R304, R331). -/
theorem exec_config_of_illegal {s : State} (hb : s.busy = false)
    (h : s.regs.logSize.toNat = 0 ∨ s.build.logSizeMax < s.regs.logSize.toNat) :
    exec .config s = .next { s with
      pred := { s.pred with configured := false, lsz := 0 }
      regs := { s.regs with done := false, err := true, errCode := 1, lastOp := 1 }
      env := { s.env with marks := [] } } := by
  have hstep := State.configStep_of_illegal (s := (s.prologue 1).withAct .config) h
  have hend := State.raise_of_idle (s := s.prologue 1) hb .configuration
  rw [exec_config, State.accept_idle _ hb]
  exact congrArg _ (hstep.trans hend)

/-! ### Accesses to the window -/

theorem accessAt_of_outside {b : Config.Build} {addr : Nat} (h : addr < b.regBase ∨ b.regBase + 0x100 ≤ addr)
    (width : Nat) : accessAt b addr width = .elsewhere := if_pos h

/-- Where a register stands in the window (R50). -/
def Reg.offset : Reg → Nat
  | .cmd => 0x00
  | .cfg => 0x08
  | .count => 0x10
  | .capacity => 0x18
  | .srcLen => 0x20
  | .status => 0x28
  | .bytes => 0x30
  | .values => 0x38
  | .irqEn => 0x40

theorem regAt_offset (r : Reg) : regAt r.offset = some r := by cases r <;> rfl

/-- Registers stand at multiples of 8 below 0x48 (R50). -/
theorem Reg.offset_aligned (r : Reg) : r.offset % 8 = 0 ∧ r.offset < 0x48 := by cases r <;> decide

theorem eq_offset_of_regAt {offset : Nat} {r : Reg} (h : regAt offset = some r) : offset = r.offset := by
  unfold regAt at h
  split at h <;> cases h <;> rfl

/-- No register stands at a misaligned or a reserved offset (R50, R107). -/
theorem regAt_eq_none {offset : Nat} (h : offset % 8 ≠ 0 ∨ 0x48 ≤ offset) : regAt offset = none := by
  refine Option.eq_none_iff_forall_ne_some.mpr fun r hr => ?_
  have hoffset := eq_offset_of_regAt hr
  have haligned := r.offset_aligned
  omega

/-- A wrong width, a misaligned address or a reserved offset (R310). -/
theorem accessAt_of_bad (b : Config.Build) {offset width : Nat} (hoffset : offset < 0x100)
    (h : width ≠ 64 ∨ offset % 8 ≠ 0 ∨ 0x48 ≤ offset) : accessAt b (b.regBase + offset) width = .busError := by
  have hinside : ¬(b.regBase + offset < b.regBase ∨ b.regBase + 0x100 ≤ b.regBase + offset) := by omega
  rw [accessAt, if_neg hinside, Nat.add_sub_cancel_left]
  by_cases hwidth : width = 64
  · rw [if_pos hwidth, regAt_eq_none (h.resolve_left (not_not_intro hwidth))]
  · rw [if_neg hwidth]

theorem Reg.offset_lt (r : Reg) : r.offset < 0x100 := r.offset_aligned.2.trans (by decide)

/-- A legal read answers from its register (R307). -/
theorem State.outsideStep_busRead_offset (s : State) (r : Reg) :
    s.outsideStep (.busRead (s.build.regBase + r.offset) 64) = .next (s.readReg r) := by
  simp only [State.outsideStep, accessAt_regBase_add s.build r.offset_lt (regAt_offset r)]

/-- A legal write is answered and acts on its register (R308). -/
theorem State.outsideStep_busWrite_offset (s : State) (r : Reg) (w : Word) :
    s.outsideStep (.busWrite (s.build.regBase + r.offset) 64 w) = (s.answer .written).writeReg r w :=
  s.outsideStep_busWrite_reg r.offset_lt (regAt_offset r) w

/-! ### Registers -/

/-- Without a command the counters stand still (R389). -/
theorem State.shownCounters_of_idle {s : State} (hb : s.busy = false) : s.shownCounters = (s.counters, s) := by
  simp [State.shownCounters, hb]

/-- The word a register holds (R50, R307). -/
def State.regValue (s : State) : Reg → Word
  | .cmd => 0
  | .cfg => s.regs.logSize.setWidth 64
  | .count => s.regs.count
  | .capacity => s.regs.capacity
  | .srcLen => s.regs.srcLen
  | .status => s.statusWord
  | .bytes => s.regs.bytes
  | .values => s.regs.values
  | .irqEn => s.irqEnWord

/-- Read while idle, every register answers the word it holds (R307). -/
theorem State.readReg_of_idle {s : State} (hb : s.busy = false) (r : Reg) :
    s.readReg r = s.answer (.data (s.regValue r)) := by
  cases r
  case capacity | srcLen | bytes | values =>
    rw [State.readReg, State.shownCounters_of_idle hb]
    rfl
  all_goals rfl

/-- IRQ_EN as a number: ERR_IE at bit 1, DONE_IE at bit 0 (R59). -/
theorem State.irqEnWord_eq (s : State) :
    s.irqEnWord = BitVec.ofNat 64 (2 * s.regs.errIe.toNat + s.regs.doneIe.toNat) := by
  unfold State.irqEnWord
  cases s.regs.errIe <;> cases s.regs.doneIe <;> rfl

theorem State.whenIdle_idle {s : State} (hb : s.busy = false) (regs : HostRegs) :
    s.whenIdle regs = { s with regs := regs } := by simp [State.whenIdle, hb]

theorem State.whenIdle_busy {s : State} (hb : s.busy = true) (regs : HostRegs) : s.whenIdle regs = s := by
  simp [State.whenIdle, hb]

/-- The registers that take no write while a command runs (R311). -/
def Reg.writableWhileIdleOnly : Reg → Bool
  | .cmd | .cfg | .count | .capacity | .srcLen => true
  | .status | .bytes | .values | .irqEn => false

theorem State.writeReg_of_busy {s : State} (hb : s.busy = true) {r : Reg} (hr : r.writableWhileIdleOnly = true)
    (w : Word) : s.writeReg r w = .next s := by
  cases r
  case cmd => exact exec_of_busy (format_decodeCmd w) hb
  case cfg | count | capacity | srcLen => exact congrArg _ (State.whenIdle_busy hb _)
  all_goals cases hr

/-- Such a write is answered by the bus and dropped (R311). -/
theorem State.outsideStep_busWrite_of_busy {s : State} (hb : s.busy = true) (r : Reg)
    (hr : r.writableWhileIdleOnly = true) (w : Word) :
    s.outsideStep (.busWrite (s.build.regBase + r.offset) 64 w) = .next (s.answer .written) :=
  (s.outsideStep_busWrite_offset r w).trans (State.writeReg_of_busy (s := s.answer .written) hb hr w)

/-- Write-1-to-clear, flag by flag (R309). -/
theorem HostRegs.writeOneToClear_eq (r : HostRegs) (w : Word) :
    r.writeOneToClear w = { r with
      done := if w.getLsbD 1 then false else r.done
      err := if w.getLsbD 2 then false else r.err
      errCode := if w.getLsbD 2 then 0 else r.errCode } := by
  have clear (set flag : Bool) : (flag && !set) = if set then false else flag := by
    cases set <;> simp
  rw [HostRegs.writeOneToClear, clear, clear]

/-! ### Every move ends in a next state -/

theorem andThen_total {o : StepOutcome} {run : State → StepOutcome} (ho : ∃ s, o = .next s)
    (hrun : ∀ s, ∃ t, run s = .next t) : ∃ t, andThen o run = .next t := by
  obtain ⟨s, rfl⟩ := ho
  exact hrun s

/-- Every instruction has a meaning. -/
theorem exec_total (i : Instr) (s : State) : ∃ t, exec i s = .next t := by
  cases i <;> exact ⟨_, rfl⟩

theorem State.decodeStep_total (s : State) : ∃ t, s.decodeStep = .next t := by
  rcases s.decodeStep_cases with
    ⟨-, e⟩ | ⟨-, -, e⟩ | ⟨h, body, -, -, -, -, e⟩ | ⟨-, -, e⟩ | ⟨h, body, -, -, -, -, e⟩
  case inr.inr.inr.inr => exact ⟨_, e.trans (runRecord_eq h _ _)⟩
  all_goals exact ⟨_, e⟩

theorem State.blockStep_total (s : State) : ∃ t, s.blockStep = .next t := by
  unfold State.blockStep
  split
  case h_4 => exact s.decodeStep_total
  all_goals exact ⟨_, rfl⟩

theorem State.writeReg_total (s : State) (r : Reg) (w : Word) : ∃ t, s.writeReg r w = .next t := by
  cases r
  case cmd => exact exec_total _ s
  all_goals exact ⟨_, rfl⟩

theorem State.outsideStep_total (s : State) (act : OutsideAction) : ∃ t, s.outsideStep act = .next t := by
  cases act
  case busRead addr width =>
    simp only [State.outsideStep]
    split <;> exact ⟨_, rfl⟩
  case busWrite addr width w =>
    simp only [State.outsideStep]
    split
    · exact ⟨_, rfl⟩
    · exact ⟨_, rfl⟩
    · exact State.writeReg_total _ _ w
  case resetMidRecord => exact andThen_total s.blockStep_total fun _ => ⟨_, rfl⟩
  all_goals exact ⟨_, rfl⟩

theorem State.move_total (s : State) : ∃ t, s.move = .next t := by
  unfold State.move
  split
  · exact s.blockStep_total
  · exact State.blockStep_total _
  · exact State.outsideStep_total _ _

theorem step_total (s : State) : ∃ t, step s = .next t :=
  andThen_total s.move_total fun t => ⟨t.settleIrq, rfl⟩

end Sys2Proof.Machine

namespace Sys2Proof.Proofs

open Sys2Proof.Machine Sys2Proof.Stated

/-- Settles O8: no instruction, block step or outside action refuses, and settling `irq` does not either. -/
theorem stepAlwaysGivesANextState : Obligations.StepAlwaysGivesANextState := by
  unfold Obligations.StepAlwaysGivesANextState
  exact step_total

/-- Settles O24: CONFIG's whole next state, whose tables are cleared below `2 ^ lsz`. -/
theorem configMakesAFreshInstance : Obligations.ConfigMakesAFreshInstance := by
  unfold Obligations.ConfigMakesAFreshInstance
  intro s hb h1 hmax
  have hclear (m : Memory) (j : Nat) := Memory.read_clearBelow m (2 ^ s.regs.logSize.toNat) j
  refine ⟨_, exec_config_of_legal hb h1 hmax, fun j hj => ?below, fun j hj => ?above, rfl, rfl, rfl, rfl, rfl, rfl, rfl,
    rfl, rfl, rfl, rfl⟩
  case below => exact ⟨(hclear _ j).trans (if_pos hj), (hclear _ j).trans (if_pos hj)⟩
  case above => exact ⟨(hclear _ j).trans (if_neg hj.not_gt), (hclear _ j).trans (if_neg hj.not_gt)⟩

/-- Settles O49: the window decoder answers before any register is reached. -/
theorem badAccessesGetABusError : Obligations.BadAccessesGetABusError := by
  unfold Obligations.BadAccessesGetABusError
  intro s width w
  refine ⟨fun offset hoffset hbad => ?bad, fun addr haddr => ?elsewhere⟩
  case bad => simp only [State.outsideStep, accessAt_of_bad s.build hoffset hbad, and_self]
  case elsewhere => simp only [State.outsideStep, accessAt_of_outside haddr, and_self]

/-- Settles O22: accepted or ignored, NOP leaves the state. -/
theorem nopChangesNothing : Obligations.NopChangesNothing := by
  unfold Obligations.NopChangesNothing
  intro s
  rw [exec_nop]
  rcases s.accept_cases fun s => s with ⟨-, e⟩ | ⟨-, e⟩ <;> rw [e]

/-- Settles O23: every command row goes through command acceptance. -/
theorem commandsAreIgnoredWhileBusy : Obligations.CommandsAreIgnoredWhileBusy := by
  unfold Obligations.CommandsAreIgnoredWhileBusy
  exact fun _ _ => exec_of_busy

/-- Settles O25: the prologue and the error of an idle block. -/
theorem configRejectsAnIllegalLogSize : Obligations.ConfigRejectsAnIllegalLogSize := by
  unfold Obligations.ConfigRejectsAnIllegalLogSize
  exact fun _ => exec_config_of_illegal

/-- Settles O26: both reserved rows take the same error entry. -/
theorem reservedOpcodesRaiseIllegalCommand : Obligations.ReservedOpcodesRaiseIllegalCommand := by
  unfold Obligations.ReservedOpcodesRaiseIllegalCommand
  intro op s hb
  rw [exec_reserved47, exec_reserved8F, State.accept_idle _ hb, State.illegalCommand_of_idle hb]
  exact ⟨fun _ => rfl, fun _ => rfl⟩

/-- Settles O46: each offset reaches its register, and idle counters are shown as they stand. -/
theorem readsAnswerTheRegister : Obligations.ReadsAnswerTheRegister := by
  unfold Obligations.ReadsAnswerTheRegister
  intro s
  simp only [List.forall_mem_cons, List.not_mem_nil, false_imp_iff, implies_true, and_true]
  have hread := s.outsideStep_busRead_offset
  refine ⟨⟨hread .cmd, hread .cfg, hread .count, hread .status, ?irqEn⟩, fun hb => ?counters⟩
  case irqEn =>
    rw [← s.irqEnWord_eq]
    exact hread .irqEn
  case counters =>
    have hidle (r : Reg) := (hread r).trans (congrArg _ (State.readReg_of_idle hb r))
    exact ⟨hidle .capacity, hidle .srcLen, hidle .bytes, hidle .values⟩

/-- Settles O47: each offset reaches its register, and the operand registers are stored while idle only. -/
theorem writesStoreTheWritableFields : Obligations.WritesStoreTheWritableFields := by
  unfold Obligations.WritesStoreTheWritableFields
  intro s w
  have hwrite (r : Reg) := s.outsideStep_busWrite_offset r w
  have hstore (regs : HostRegs) (hb : s.busy = false) := State.whenIdle_idle (s := s.answer .written) hb regs
  refine ⟨fun hb => ?cfg, fun hb => ?count, fun hb => ?capacity, fun hb => ?srcLen, fun hb => ?busy, hwrite .bytes,
    hwrite .values, hwrite .irqEn⟩
  case cfg => exact (hwrite .cfg).trans (congrArg _ (hstore _ hb))
  case count => exact (hwrite .count).trans (congrArg _ (hstore _ hb))
  case capacity => exact (hwrite .capacity).trans (congrArg _ (hstore _ hb))
  case srcLen => exact (hwrite .srcLen).trans (congrArg _ (hstore _ hb))
  case busy =>
    have hdrop := State.outsideStep_busWrite_of_busy hb
    exact ⟨hdrop .cfg rfl w, hdrop .count rfl w, hdrop .capacity rfl w, hdrop .srcLen rfl w⟩

/-- Settles O48: the write of STATUS, flag by flag. -/
theorem statusIsWriteOneToClear : Obligations.StatusIsWriteOneToClear := by
  unfold Obligations.StatusIsWriteOneToClear
  intro s w
  refine (s.outsideStep_busWrite_offset .status w).trans ?_
  rw [State.writeReg, HostRegs.writeOneToClear_eq]
  rfl

/-- Settles O50: the five registers are writable while idle only. -/
theorem busyWritesAreDropped : Obligations.BusyWritesAreDropped := by
  unfold Obligations.BusyWritesAreDropped
  intro s w hb
  have hdrop := State.outsideStep_busWrite_of_busy hb
  simp only [List.forall_mem_cons, List.not_mem_nil, false_imp_iff, implies_true, and_true]
  exact ⟨hdrop .cmd rfl w, hdrop .cfg rfl w, hdrop .count rfl w, hdrop .capacity rfl w, hdrop .srcLen rfl w⟩

end Sys2Proof.Proofs

/-! # Errors -/

namespace Sys2Proof.Machine

/-- The fatal errors are those with the codes 1, 2 and 3 (R330, R340). -/
theorem endsInstance_iff_errorCode_mem (e : BlockError) :
    endsInstance e = true ↔ (errorCode e).toNat ∈ [1, 2, 3] := by
  cases e <;> decide

/-- The instance check without an instance, in an idle block: NotConfigured is no fatal error (R335, R340). -/
theorem State.startUnderInstance_of_unconfigured {s : State} (hidle : s.busy = false)
    (hc : s.pred.configured = false) (act : Act) :
    s.startUnderInstance act = { s with
      regs := s.regs.setError .notConfigured
      env := { s.env with marks := [] } } := by
  have hraise : s.startUnderInstance act = s.raise .notConfigured := if_neg (Bool.eq_false_iff.mp hc)
  exact hraise.trans (State.raise_of_idle hidle .notConfigured)

end Sys2Proof.Machine

namespace Sys2Proof.Proofs

open Sys2Proof.Machine Sys2Proof.Stated

/-- Settles O27: the prologue leaves the block idle and without an instance, so the instance check raises the error. -/
theorem encodeAndDecodeNeedAnInstance : Obligations.EncodeAndDecodeNeedAnInstance := by
  unfold Obligations.EncodeAndDecodeNeedAnInstance
  intro s hidle hc
  have hcheck (op : BitVec 4) (act : Act) :=
    State.startUnderInstance_of_unconfigured (s := s.prologue op) hidle hc act
  rw [exec_encode, exec_decode, State.accept_idle _ hidle, State.accept_idle _ hidle, hcheck, hcheck]
  exact ⟨rfl, rfl⟩

/-- Settles O30: the error entry field by field, with the fatal errors told apart by their codes. -/
theorem raiseIsTheErrorEntry : Obligations.RaiseIsTheErrorEntry := by
  unfold Obligations.RaiseIsTheErrorEntry
  intro s e
  rw [← endsInstance_iff_errorCode_mem]
  refine ⟨s.raise_busy e, rfl, s.raise_regs e, fun hfatal => ?fatal, fun hmild => ?mild, s.raise_ports e, s.raise_irq e,
    s.raise_build e⟩
  case fatal => exact (s.raise_pred e).trans (if_pos hfatal)
  case mild => exact (s.raise_pred e).trans (if_neg hmild)

end Sys2Proof.Proofs

/-! # Reset, and counters read during a command -/

namespace Sys2Proof.Machine

/-! ### Counter reads -/

theorem State.shownCounters_eq_of_busy {s : State} (hb : s.busy = true) :
    s.shownCounters = (s.env.marks.getD (s.choice 0 s.env.marks.length) s.counters,
      { s with env := { s.env with
          draws := s.env.draws + 1, marks := s.env.marks.drop (s.choice 0 s.env.marks.length) } }) := if_pos hb

/-- While a command runs a counter read shows an open boundary and closes the earlier ones, whatever the free choice
(R389). -/
theorem State.shownCounters_of_busy {s : State} (hb : s.busy = true) (hmarks : s.env.marks ≠ []) :
    ∃ earlier shown later, s.env.marks = earlier ++ shown :: later
      ∧ s.shownCounters =
        (shown, { s with env := { s.env with draws := s.env.draws + 1, marks := shown :: later } }) := by
  set k := s.choice 0 s.env.marks.length
  have hlt : k < s.env.marks.length := Nat.mod_lt _ (List.length_pos_of_ne_nil hmarks)
  have hopen : s.env.marks.drop k = s.env.marks[k] :: s.env.marks.drop (k + 1) := List.drop_eq_getElem_cons hlt
  refine ⟨s.env.marks.take k, s.env.marks[k], s.env.marks.drop (k + 1), ?_, ?_⟩
  · rw [← hopen, List.take_append_drop]
  · rw [State.shownCounters_eq_of_busy hb, List.getD_eq_getElem _ _ hlt, hopen]

/-- The bus read of a register that answers a counter, wherever the window lies (R307, R389). -/
theorem State.outsideStep_busRead_counter {s : State} (hb : s.busy = true) (hmarks : s.env.marks ≠ []) {r : Reg}
    {field : Counters → Word} (hr : s.readReg r = s.shownCounters.2.answer (.data (field s.shownCounters.1))) :
    ∃ (earlier later : List Counters) (shown : Counters) (t : State),
      s.env.marks = earlier ++ shown :: later
      ∧ s.outsideStep (.busRead (s.build.regBase + r.offset) 64) = .next t
      ∧ t = { s with env := { s.env with
          bus := .data (field shown), marks := shown :: later, draws := s.env.draws + 1 } } := by
  obtain ⟨earlier, shown, later, hsplit, hshown⟩ := State.shownCounters_of_busy hb hmarks
  rw [hshown] at hr
  exact ⟨earlier, later, shown, _, hsplit, s.outsideStep_busRead_offset r, hr⟩

/-! ### What the block's step does to the output ports -/

/-- `t` has on BOUT and VOUT all that `s` has, and perhaps more after it. -/
structure State.OutputsGrow (s t : State) : Prop where
  bout : s.ports.bout <+: t.ports.bout
  vout : s.ports.vout <+: t.ports.vout

theorem State.OutputsGrow.refl (s : State) : s.OutputsGrow s := ⟨List.prefix_rfl, List.prefix_rfl⟩

theorem State.OutputsGrow.trans {s t u : State} (hst : s.OutputsGrow t) (htu : t.OutputsGrow u) : s.OutputsGrow u :=
  ⟨hst.bout.trans htu.bout, hst.vout.trans htu.vout⟩

/-- An operation that leaves both ports alone. -/
theorem State.OutputsGrow.of_eq {s t : State} (hbout : t.ports.bout = s.ports.bout)
    (hvout : t.ports.vout = s.ports.vout) : s.OutputsGrow t :=
  ⟨hbout ▸ List.prefix_rfl, hvout ▸ List.prefix_rfl⟩

/-- A record goes to the tail of BOUT or, after CapacityExhausted, nowhere (R244, R245). -/
theorem State.OutputsGrow.emitRecord (s : State) (record : List Byte) (nvals : Nat) :
    s.OutputsGrow (s.emitRecord record nvals) := by
  rcases s.emitRecord_cases record nvals with ⟨-, e⟩ | ⟨-, e⟩ <;> rw [e]
  · exact .of_eq rfl rfl
  · exact ⟨List.prefix_append _ _, List.prefix_rfl⟩

/-- A real slot sends its value to the tail of VOUT; nothing else a half does touches an output port (R275, R276). -/
theorem State.OutputsGrow.runHalf (s : State) (e : Engine) (c : BitVec 3) : s.OutputsGrow (s.runHalf e c) := by
  rcases s.runHalf_cases e c with ⟨-, -, -, -, h⟩ | ⟨-, -, -, -, h⟩ | ⟨-, -, h⟩ | ⟨-, h⟩ <;> rw [h]
  case inl => exact ⟨List.prefix_rfl, List.prefix_append _ _⟩
  all_goals exact .of_eq rfl rfl

theorem State.OutputsGrow.term (s : State) : s.OutputsGrow (s.parse 1 fun t => t) := by
  rcases exec_term_cases (exec_term s) with h | h | h <;> rw [h]
  case inr.inr => exact .refl s
  all_goals exact .of_eq rfl rfl

/-- A record pushes what its two halves push. -/
theorem State.OutputsGrow.runRecord {s t : State} {h : Byte} {pad : Bool} (ht : runRecord h pad s = .next t) :
    s.OutputsGrow t := by
  obtain rfl := Host.Outcome.next.inj ((runRecord_eq h pad s).symm.trans ht)
  have hslots := (OutputsGrow.runHalf s (nibbleEngine (h.extractLsb' 4 4)) (headerCode1 h)).trans
    (.runHalf _ (nibbleEngine (h.extractLsb' 0 4)) (headerCode2 h))
  cases pad
  case false => exact hslots.trans (.of_eq rfl rfl)
  case true => exact (hslots.trans (.term _)).trans (.of_eq rfl rfl)

theorem State.OutputsGrow.encodeStep (s : State) : s.OutputsGrow s.encodeStep := by
  rcases s.encodeStep_cases with ⟨-, e⟩ | ⟨a1, a2, rest, -, -, e⟩ | ⟨a1, rest, -, -, e⟩ | ⟨-, -, e⟩ <;> rw [e]
  · exact .of_eq rfl rfl
  · rw [State.fullRecord_eq]
    exact .trans (t := s.afterObserving _ rest) (.of_eq rfl rfl) (.emitRecord _ _ _)
  · rw [State.paddingRecord_eq]
    exact .trans (t := s.afterObserving _ rest) (.of_eq rfl rfl) (.emitRecord _ _ _)
  · exact .refl s

theorem State.OutputsGrow.decodeStep {s t : State} (ht : s.decodeStep = .next t) : s.OutputsGrow t := by
  rcases s.decodeStep_cases with
    ⟨-, e⟩ | ⟨-, -, e⟩ | ⟨h, body, -, -, -, -, e⟩ | ⟨-, -, e⟩ | ⟨h, body, -, -, -, -, e⟩ <;> rw [e] at ht
  case inr.inr.inr.inr => exact .trans (t := s.takeBin 1) (.of_eq rfl rfl) (.runRecord ht)
  all_goals
    obtain rfl := Host.Outcome.next.inj ht
    exact .of_eq rfl rfl

/-- The CONFIG step touches no stream (R303). -/
theorem State.configStep_ports (s : State) : s.configStep.ports = s.ports := by
  rcases s.configStep_cases with ⟨-, e⟩ | ⟨-, -, e⟩ <;> rw [e] <;> rfl

/-- The block never takes back what it has pushed (R72). -/
theorem State.OutputsGrow.blockStep {s t : State} (ht : s.blockStep = .next t) : s.OutputsGrow t := by
  unfold State.blockStep at ht
  split at ht
  case h_4 => exact .decodeStep ht
  all_goals obtain rfl := Host.Outcome.next.inj ht
  case h_1 => exact .refl s
  case h_2 => exact .of_eq (congrArg Ports.bout s.configStep_ports) (congrArg Ports.vout s.configStep_ports)
  case h_3 => exact .encodeStep s

/-! ### Reset -/

/-- A choice out of `n + 1` alternatives is at most `n`. -/
theorem State.choice_le (s : State) (k n : Nat) : s.choice k (n + 1) ≤ n := Nat.le_of_lt_succ (Nat.mod_lt _ n.succ_pos)

/-- A list that begins with `l`, cut somewhere after `l`, is `l` and what is kept of the rest. -/
theorem take_length_add_of_prefix {α : Type} {l m : List α} (h : l <+: m) (k : Nat) :
    m.take (l.length + k) = l ++ (m.drop l.length).take k := by
  obtain ⟨r, rfl⟩ := h
  rw [List.take_length_add_append, List.drop_left]

end Sys2Proof.Machine

namespace Sys2Proof.Proofs

open Sys2Proof.Machine Sys2Proof.Stated

/-- Settles O51: each offset reaches its register, and the read shows one of the open boundaries. -/
theorem counterReadsDuringACommandShowABoundary : Obligations.CounterReadsDuringACommandShowABoundary := by
  unfold Obligations.CounterReadsDuringACommandShowABoundary
  intro s hb hmarks
  have hread (r : Reg) {field : Counters → Word} :=
    State.outsideStep_busRead_counter hb hmarks (r := r) (field := field)
  simp only [List.forall_mem_cons, List.not_mem_nil, false_imp_iff, implies_true, and_true]
  exact ⟨hread .capacity rfl, hread .srcLen rfl, hread .bytes rfl, hread .values rfl⟩

/-- Settles O55: reset between steps, whose registers clear `irq`. -/
theorem resetEndsEverything : Obligations.ResetEndsEverything := by
  unfold Obligations.ResetEndsEverything
  refine ⟨fun s ts hturns => ?reset, fun s => State.blockStep_of_idle⟩
  case reset => exact ⟨_, step_of_turns_outside hturns, rfl, rfl, rfl, rfl, rfl, rfl, rfl⟩

/-- Settles O56: the four free choices are the cuts, and the block's step only adds to BOUT and VOUT. -/
theorem resetMidRecordCutsTheStreams : Obligations.ResetMidRecordCutsTheStreams := by
  unfold Obligations.ResetMidRecordCutsTheStreams
  intro s t ts hturns hblock
  have hgrow := State.OutputsGrow.blockStep hblock
  have hstep := step_of_turns_outside hturns
  rw [State.outsideStep, State.resetMidRecord, hblock, andThen_next, andThen_next] at hstep
  refine ⟨_, _, _, _, _, hstep, rfl, rfl, rfl, rfl, rfl, rfl, rfl, rfl, State.choice_le _ _ _, rfl,
    State.choice_le _ _ _, rfl, take_length_add_of_prefix hgrow.bout _, take_length_add_of_prefix hgrow.vout _⟩

end Sys2Proof.Proofs

/-! # What no instance reaches

Two states that differ at most in slots no instance reaches are carried through a step together. An operation that does
not touch the tables is carried by `SameReachable.map`. The engines read and write slots below `2 ^ LSZ` alone (R182):
what they predict and observe is carried by the lemmas about `Predictor.SameView`. -/

namespace Sys2Proof.Machine

open Sys2Proof.Stated

/-- Both sides of one test stay related when each of its branches does, however each side decides it. -/
theorem rel_ite {α : Type} {R : α → α → Prop} {c : Prop} {d d' : Decidable c} {a b a' b' : α} (ht : c → R a a')
    (he : ¬c → R b b') : R (@ite α c d a b) (@ite α c d' a' b') := by
  by_cases h : c
  · simpa only [if_pos h] using ht h
  · simpa only [if_neg h] using he h

/-! ### The predictor state as an instance sees it -/

/-- Two predictor states that differ at most in slots no instance reaches. -/
structure Predictor.SameView (p q : Predictor) : Prop where
  ctxF : q.ctxF = p.ctxF
  ctxD : q.ctxD = p.ctxD
  lastD : q.lastD = p.lastD
  lsz : q.lsz = p.lsz
  configured : q.configured = p.configured
  slots : p.configured = true → ∀ j < 2 ^ p.lsz.toNat,
    Memory.read p.tf j = Memory.read q.tf j ∧ Memory.read p.td j = Memory.read q.td j

/-- Tables that agree on a slot still do after the same write to both. -/
theorem Memory.read_write_congr {m m' : Memory} (hm : Memory.wf m) (hm' : Memory.wf m') {j : Nat}
    (h : Memory.read m j = Memory.read m' j) (i : Nat) (v : Word) :
    Memory.read (Memory.write m i v) j = Memory.read (Memory.write m' i v) j := by
  by_cases hj : j = i
  · rw [hj, Memory.read_write_same hm, Memory.read_write_same hm']
  · rw [Memory.read_write_other _ _ hj, Memory.read_write_other _ _ hj, h]

namespace Predictor.SameView

variable {p q : Predictor} {n : Nat}

/-- Under an instance the engines predict from reachable slots (R180, R182, R185). -/
theorem predict (h : p.SameView q) (hp : p.Sound n) (hc : p.configured = true) (e : Engine) :
    q.predict e = p.predict e := by
  obtain ⟨hF, hD⟩ := hp.contexts hc
  cases e
  case fcm => exact (congrArg (Memory.read q.tf ·.toNat) h.ctxF).trans (h.slots hc _ hF).1.symm
  case dfcm =>
    calc q.predD = p.lastD + Memory.read q.td p.ctxD.toNat := by rw [predD, h.lastD, h.ctxD]
      _ = p.predD := by rw [predD, (h.slots hc _ hD).2]

/-- So the encoder sends the same half (R222). -/
theorem halfOf (h : p.SameView q) (hp : p.Sound n) (hc : p.configured = true) (a : Word) : q.halfOf a = p.halfOf a := by
  have hF : q.predF = p.predF := h.predict hp hc .fcm
  have hD : q.predD = p.predD := h.predict hp hc .dfcm
  simp only [Predictor.halfOf, hF, hD]

/-- Both observe a value alike: the same slots written, the same contexts (R181, R186). -/
theorem observe (h : p.SameView q) (hp : p.Sound n) (hq : q.Sound n) (H : Config.Hashes) (a : Word) :
    (p.observe H a).SameView (q.observe H a) where
  ctxF := by simp only [observe_ctxF, h.lsz, h.ctxF]
  ctxD := by simp only [observe_ctxD, h.lsz, h.ctxD, h.lastD]
  lastD := rfl
  lsz := h.lsz
  configured := h.configured
  slots hc j hj := by
    obtain ⟨hF, hD⟩ := h.slots hc j hj
    rw [observe_tf, observe_tf, observe_td, observe_td, h.ctxF, h.ctxD, h.lastD]
    exact ⟨Memory.read_write_congr hp.tfWf hq.tfWf hF _ _, Memory.read_write_congr hp.tdWf hq.tdWf hD _ _⟩

/-- A fresh instance clears every slot it reaches, whatever the tables held (R303). -/
theorem fresh (p q : Predictor) (lsz : BitVec 6) : (p.fresh lsz).SameView (q.fresh lsz) where
  ctxF := rfl
  ctxD := rfl
  lastD := rfl
  lsz := rfl
  configured := rfl
  slots _ j hj := by
    have hclear (m : Memory) : Memory.read (Memory.clearBelow m (2 ^ lsz.toNat)) j = blankSlot :=
      (Memory.read_clearBelow m _ j).trans (if_pos hj)
    simp only [fresh_tf, fresh_td, hclear, and_self]

/-- The same payload decodes to the same value (R223). -/
theorem decHalf_fst (h : p.SameView q) (hp : p.Sound n) (hc : p.configured = true) (H : Config.Hashes) (e : Engine)
    (payload : List Byte) : (decHalf H q e payload).1 = (decHalf H p e payload).1 :=
  congrArg (des payload ^^^ ·) (h.predict hp hc e)

theorem decHalf_snd (h : p.SameView q) (hp : p.Sound n) (hq : q.Sound n) (hc : p.configured = true) (H : Config.Hashes)
    (e : Engine) (payload : List Byte) : (decHalf H p e payload).2.SameView (decHalf H q e payload).2 := by
  rw [Machine.decHalf_snd, Machine.decHalf_snd, h.decHalf_fst hp hc]
  exact h.observe hp hq H _

/-- Two values give the same full record (R242). -/
theorem fullRecordBytes (h : p.SameView q) (hp : p.Sound n) (hq : q.Sound n) (hc : p.configured = true)
    {H : Config.Hashes} (hH : H.InRange n) (a1 a2 : Word) : q.fullRecordBytes H a1 a2 = p.fullRecordBytes H a1 a2 := by
  have h2 := (h.observe hp hq H a1).halfOf (hp.observe hH hc a1) hc a2
  rw [Predictor.fullRecordBytes, Predictor.fullRecordBytes, h.halfOf hp hc, h2]

/-- One value gives the same padding record (R243). -/
theorem paddingRecordBytes (h : p.SameView q) (hp : p.Sound n) (hc : p.configured = true) (a1 : Word) :
    q.paddingRecordBytes a1 = p.paddingRecordBytes a1 := by
  rw [Predictor.paddingRecordBytes, Predictor.paddingRecordBytes, h.halfOf hp hc]

end Predictor.SameView

/-! ### The state with other tables -/

/-- `s` with its tables replaced. -/
def State.withTables (s : State) (tf td : Memory) : State := { s with pred := { s.pred with tf := tf, td := td } }

@[simp] theorem State.withTables_ports (s : State) (tf td : Memory) : (s.withTables tf td).ports = s.ports := rfl
@[simp] theorem State.withTables_build (s : State) (tf td : Memory) : (s.withTables tf td).build = s.build := rfl
@[simp] theorem State.withTables_env (s : State) (tf td : Memory) : (s.withTables tf td).env = s.env := rfl
@[simp] theorem State.withTables_hashes (s : State) (tf td : Memory) : (s.withTables tf td).hashes = s.hashes := rfl

/-- An error does not look at the tables (R340). -/
theorem State.raise_withTables (s : State) (e : BlockError) (tf td : Memory) :
    (s.withTables tf td).raise e = (s.raise e).withTables tf td := by
  cases e <;> rfl

/-- No register read looks at them, a counter read neither (R307, R389). -/
theorem State.shownCounters_withTables (s : State) (tf td : Memory) :
    (s.withTables tf td).shownCounters = (s.shownCounters.1, s.shownCounters.2.withTables tf td) := by
  cases hb : s.busy
  case false =>
    rw [shownCounters_of_idle hb, shownCounters_of_idle (s := s.withTables tf td) hb]
    rfl
  case true =>
    rw [shownCounters_eq_of_busy hb, shownCounters_eq_of_busy (s := s.withTables tf td) hb]
    rfl

theorem State.readReg_withTables (s : State) (r : Reg) (tf td : Memory) :
    (s.withTables tf td).readReg r = (s.readReg r).withTables tf td := by
  cases r
  case capacity | srcLen | bytes | values =>
    rw [State.readReg, shownCounters_withTables]
    rfl
  all_goals rfl

theorem State.shownCounters_pred (s : State) : s.shownCounters.2.pred = s.pred := by
  unfold State.shownCounters
  split <;> rfl

/-- A register read leaves the predictor state alone (R307). -/
theorem State.readReg_pred (s : State) (r : Reg) : (s.readReg r).pred = s.pred := by
  cases r
  case capacity | srcLen | bytes | values => exact s.shownCounters_pred
  all_goals rfl

/-- A real slot reads its payload and one value, wherever the payload ends on BIN (R223, R275). -/
theorem State.afterRealHalf_eq_afterReading (s : State) (e : Engine) (c : BitVec 3) :
    s.afterRealHalf e c =
      s.afterReading (nbytes c) (decHalf s.hashes s.pred e (s.ports.bin.take (nbytes c))).2
        (s.ports.bin.drop (nbytes c)) [(decHalf s.hashes s.pred e (s.ports.bin.take (nbytes c))).1] := rfl

theorem State.blockStep_of_config {s : State} (hact : s.seq.act = .config) : s.blockStep = .next s.configStep := by
  simp only [State.blockStep, hact]

end Sys2Proof.Machine

namespace Sys2Proof.Stated.SameReachable

open Sys2Proof.Machine

variable {s s' : State}

/-! ### Operations that do not touch the tables -/

/-- The other state is the first with other tables. -/
theorem exists_withTables (h : SameReachable s s') : ∃ tf td, s' = s.withTables tf td := ⟨_, _, h.rest⟩

theorem sameView (h : SameReachable s s') : s.pred.SameView s'.pred := by
  obtain ⟨tf, td, rfl⟩ := h.exists_withTables
  exact ⟨rfl, rfl, rfl, rfl, rfl, h.slots⟩

/-- The predictor states may be replaced by others an instance sees alike. -/
theorem withPred (h : SameReachable s s') {p q : Predictor} (hpq : p.SameView q) :
    SameReachable { s with pred := p } { s' with pred := q } := by
  obtain ⟨tf, td, rfl⟩ := h.exists_withTables
  obtain ⟨_, _, _, _, _, _, _⟩ := q
  obtain ⟨rfl, rfl, rfl, rfl, rfl, hslots⟩ := hpq
  exact ⟨rfl, hslots⟩

/-- An operation that does not look at the tables, and keeps the predictor state or ends the instance. -/
theorem map (h : SameReachable s s') {f : State → State}
    (hcomm : ∀ tf td, f (s.withTables tf td) = (f s).withTables tf td)
    (hpred : (f s).pred.configured = true → (f s).pred = s.pred) : SameReachable (f s) (f s') := by
  obtain ⟨tf, td, rfl⟩ := h.exists_withTables
  rw [hcomm]
  refine ⟨rfl, fun hc => ?_⟩
  have hslots := h.slots
  rw [← hpred hc] at hslots
  exact hslots hc

theorem withPorts (h : SameReachable s s') (ports : Ports) :
    SameReachable { s with ports := ports } { s' with ports := ports } :=
  h.map (f := fun u => { u with ports := ports }) (fun _ _ => rfl) fun _ => rfl

theorem withRegs (h : SameReachable s s') (regs : HostRegs) :
    SameReachable { s with regs := regs } { s' with regs := regs } :=
  h.map (f := fun u => { u with regs := regs }) (fun _ _ => rfl) fun _ => rfl

theorem withTurns (h : SameReachable s s') (ts : List Turn) : SameReachable (s.withTurns ts) (s'.withTurns ts) :=
  h.map (f := (·.withTurns ts)) (fun _ _ => rfl) fun _ => rfl

theorem settleIrq (h : SameReachable s s') : SameReachable s.settleIrq s'.settleIrq :=
  h.map (f := State.settleIrq) (fun _ _ => rfl) fun _ => rfl

theorem answer (h : SameReachable s s') (r : BusResponse) : SameReachable (s.answer r) (s'.answer r) :=
  h.map (f := (·.answer r)) (fun _ _ => rfl) fun _ => rfl

theorem prologue (h : SameReachable s s') (op : BitVec 4) : SameReachable (s.prologue op) (s'.prologue op) :=
  h.map (f := (·.prologue op)) (fun _ _ => rfl) fun _ => rfl

theorem withAct (h : SameReachable s s') (act : Act) : SameReachable (s.withAct act) (s'.withAct act) :=
  h.map (f := (·.withAct act)) (fun _ _ => rfl) fun _ => rfl

theorem start (h : SameReachable s s') (act : Act) : SameReachable (s.start act) (s'.start act) :=
  h.map (f := (·.start act)) (fun _ _ => rfl) fun _ => rfl

theorem complete (h : SameReachable s s') : SameReachable s.complete s'.complete :=
  h.map (f := State.complete) (fun _ _ => rfl) fun _ => rfl

theorem mark (h : SameReachable s s') : SameReachable s.mark s'.mark :=
  h.map (f := State.mark) (fun _ _ => rfl) fun _ => rfl

theorem takeBin (h : SameReachable s s') (k : Nat) : SameReachable (s.takeBin k) (s'.takeBin k) :=
  h.map (f := (·.takeBin k)) (fun _ _ => rfl) fun _ => rfl

/-- An error keeps the predictor state or ends the instance (R340). -/
theorem raise (h : SameReachable s s') (e : BlockError) : SameReachable (s.raise e) (s'.raise e) := by
  refine h.map (f := (·.raise e)) (s.raise_withTables e) fun hc => ?_
  cases e
  case illegalCommand | notConfigured => rfl
  all_goals cases hc

/-- Reset ends the instance (R380). -/
theorem resetBlock (h : SameReachable s s') : SameReachable s.resetBlock s'.resetBlock :=
  h.map (f := State.resetBlock) (fun _ _ => rfl) fun hc => by cases hc

theorem readReg (h : SameReachable s s') (r : Reg) : SameReachable (s.readReg r) (s'.readReg r) :=
  h.map (f := (·.readReg r)) (s.readReg_withTables r) fun _ => s.readReg_pred r

/-- BUSY is no matter of the tables (R70). -/
theorem whenIdle (h : SameReachable s s') (regs : HostRegs) : SameReachable (s.whenIdle regs) (s'.whenIdle regs) := by
  obtain ⟨tf, td, rfl⟩ := h.exists_withTables
  exact rel_ite (fun _ => h) fun _ => h.withRegs regs

theorem discard (h : SameReachable s s') (ports : Ports) : SameReachable (s.discard ports) (s'.discard ports) := by
  obtain ⟨tf, td, rfl⟩ := h.exists_withTables
  exact rel_ite (fun _ => h) fun _ => h.withPorts ports

/-! ### Records -/

theorem afterObserving (h : SameReachable s s') {p q : Predictor} (hpq : p.SameView q) (rest : List Word) :
    SameReachable (s.afterObserving p rest) (s'.afterObserving q rest) := by
  obtain ⟨tf, td, rfl⟩ := h.exists_withTables
  exact (h.withPred hpq).withPorts { s.ports with vin := rest }

theorem afterReading (h : SameReachable s s') {p q : Predictor} (hpq : p.SameView q) (k : Nat) (rest : List Byte)
    (vs : List Word) : SameReachable (s.afterReading k p rest vs) (s'.afterReading k q rest vs) :=
  (h.withPred hpq).map (f := fun u => u.afterReading k u.pred rest vs) (fun _ _ => rfl) fun _ => rfl

/-- The same record meets the same CAPACITY (R244, R245). -/
theorem emitRecord (h : SameReachable s s') (record : List Byte) (nvals : Nat) :
    SameReachable (s.emitRecord record nvals) (s'.emitRecord record nvals) := by
  obtain ⟨tf, td, rfl⟩ := h.exists_withTables
  rcases Nat.lt_or_ge s.regs.capacity.toNat record.length with hlong | hfits
  · rw [State.emitRecord_of_lt nvals hlong, State.emitRecord_of_lt (s := s.withTables tf td) nvals hlong]
    exact h.raise _
  · rw [State.emitRecord_of_le nvals hfits, State.emitRecord_of_le (s := s.withTables tf td) nvals hfits]
    exact ((h.withPorts { s.ports with bout := s.ports.bout ++ record }).withRegs _).mark

/-! ### Commands -/

theorem accept (h : SameReachable s s') {run : State → State} (hrun : SameReachable (run s) (run s')) :
    SameReachable (s.accept run) (s'.accept run) := by
  obtain ⟨tf, td, rfl⟩ := h.exists_withTables
  rcases s.accept_cases run with ⟨hb, e⟩ | ⟨hb, e⟩ <;> rw [e]
  · rwa [State.accept_busy run (s := s.withTables tf td) hb]
  · rwa [State.accept_idle run (s := s.withTables tf td) hb]

/-- CONFIG clears what it makes reachable (R303, R382). -/
theorem configStep (h : SameReachable s s') : SameReachable s.configStep s'.configStep := by
  obtain ⟨tf, td, rfl⟩ := h.exists_withTables
  rcases s.configStep_cases with ⟨hbad, e⟩ | ⟨h1, hmax, e⟩ <;> rw [e]
  · rw [State.configStep_of_illegal (s := s.withTables tf td) hbad]
    exact h.raise _
  · rw [State.configStep_of_legal (s := s.withTables tf td) h1 hmax]
    exact (h.withPred (.fresh _ _ _)).complete

theorem startUnderInstance (h : SameReachable s s') (act : Act) :
    SameReachable (s.startUnderInstance act) (s'.startUnderInstance act) := by
  obtain ⟨tf, td, rfl⟩ := h.exists_withTables
  exact rel_ite (fun _ => h.start act) fun _ => h.raise _

end Sys2Proof.Stated.SameReachable

namespace Sys2Proof.Machine

open Sys2Proof.Stated

/-! ### Next states -/

/-- Both outcomes are next states, which differ at most in slots no instance reaches. -/
def SameNext (o o' : StepOutcome) : Prop := ∃ t t', o = .next t ∧ o' = .next t' ∧ SameReachable t t'

theorem SameNext.of_same {t t' : State} (h : SameReachable t t') : SameNext (.next t) (.next t') :=
  ⟨t, t', rfl, rfl, h⟩

theorem SameNext.andThen {o o' : StepOutcome} {run run' : State → StepOutcome} (ho : SameNext o o')
    (hrun : ∀ t t', SameReachable t t' → SameNext (run t) (run' t')) :
    SameNext (Machine.andThen o run) (Machine.andThen o' run') := by
  obtain ⟨t, t', rfl, rfl, h⟩ := ho
  exact hrun t t' h

/-- Every command, accepted or ignored, shows no unreachable slot. -/
theorem SameNext.exec_command {s s' : State} (h : SameReachable s s') {i : Instr} (hi : i.format = .cmd) :
    SameNext (exec i s) (exec i s') := by
  cases i
  case nop => exact .of_same (h.accept h)
  case config => exact .of_same (h.accept ((h.prologue 1#4).withAct .config).configStep)
  case encode => exact .of_same (h.accept ((h.prologue 2#4).startUnderInstance .encode))
  case decode => exact .of_same (h.accept ((h.prologue 3#4).startUnderInstance .decode))
  case reserved47 op | reserved8F op => exact .of_same (h.accept ((h.prologue op).raise .illegalCommand))
  all_goals cases hi

/-- A register write shows no unreachable slot: CMD runs a command, and no other write looks at the tables (R308). -/
theorem SameNext.writeReg {s s' : State} (h : SameReachable s s') (r : Reg) (w : Word) :
    SameNext (s.writeReg r w) (s'.writeReg r w) := by
  cases r
  case cmd => exact .exec_command h (format_decodeCmd w)
  all_goals
    obtain ⟨tf, td, rfl⟩ := h.exists_withTables
    refine .of_same ?_
  case cfg | count | capacity | srcLen => exact h.whenIdle _
  case status | irqEn => exact h.withRegs _
  case bytes | values => exact h

/-! ### The block's steps

Here the engines read the tables, so the states need their invariant, within a record too. -/

/-- Two states that differ at most in slots no instance reaches, both with a sound predictor state, and with an instance
while a command runs. -/
structure State.RunsAlike (s s' : State) : Prop where
  same : SameReachable s s'
  sound : s.pred.Sound s.build.logSizeMax
  sound' : s'.pred.Sound s.build.logSizeMax
  configured : s.busy = true → s.pred.configured = true

namespace State.RunsAlike

variable {s s' : State}

theorem of_sound (h : SameReachable s s') (hs : s.SoundButIrq) (hs' : s'.SoundButIrq) : s.RunsAlike s' := by
  obtain ⟨tf, td, rfl⟩ := h.exists_withTables
  exact ⟨h, hs.pred, hs'.pred, fun hb => (hs.running hb).configured⟩

theorem configured_of_act (h : s.RunsAlike s') (hact : s.seq.act ≠ .idle) : s.pred.configured = true :=
  h.configured ((State.busy_iff s).mpr hact)

/-- An error ends the command, and leaves the predictor states sound (R340). -/
theorem raise (h : s.RunsAlike s') (e : BlockError) : (s.raise e).RunsAlike (s'.raise e) where
  same := h.same.raise e
  sound := h.sound.raise e
  sound' := h.sound'.raise e
  configured hb := by cases hb

theorem takeBin (h : s.RunsAlike s') (k : Nat) : (s.takeBin k).RunsAlike (s'.takeBin k) :=
  ⟨h.same.takeBin k, h.sound, h.sound', h.configured⟩

theorem mark (h : s.RunsAlike s') : s.mark.RunsAlike s'.mark := ⟨h.same.mark, h.sound, h.sound', h.configured⟩

/-- ENCODE ends, records and waits alike; its records have the same bytes, since their halves are the same (R242). -/
theorem blockStep_of_encode (h : s.RunsAlike s') (hact : s.seq.act = .encode) : SameNext s.blockStep s'.blockStep := by
  have hc := h.configured_of_act (by simp [hact])
  have hview := h.same.sameView
  have hview1 (a : Word) := hview.observe h.sound h.sound' s.hashes a
  obtain ⟨tf, td, rfl⟩ := h.same.exists_withTables
  rcases s.encodeStep_cases with ⟨hn, -⟩ | ⟨a1, a2, rest, hn, hvin, -⟩ | ⟨a1, rest, hn, hvin, -⟩ | ⟨hv, hshort, -⟩
  case inl =>
    rw [State.blockStep_of_n_le_values (.inl hact) hn,
      State.blockStep_of_n_le_values (s := s.withTables tf td) (.inl hact) hn]
    exact .of_same h.same.complete
  case inr.inl =>
    have hview2 := (hview1 a1).observe (h.sound.observe s.hashes_inRange hc a1)
      (h.sound'.observe s.hashes_inRange hc a1) s.hashes a2
    rw [State.blockStep_fullRecord hact hn hvin,
      State.blockStep_fullRecord (s := s.withTables tf td) hact hn hvin, State.withTables_hashes,
      hview.fullRecordBytes h.sound h.sound' hc s.hashes_inRange]
    exact .of_same ((h.same.afterObserving hview2 rest).emitRecord _ 2)
  case inr.inr.inl =>
    rw [State.blockStep_paddingRecord hact hn hvin,
      State.blockStep_paddingRecord (s := s.withTables tf td) hact hn hvin, State.withTables_hashes,
      hview.paddingRecordBytes h.sound hc]
    exact .of_same ((h.same.afterObserving (hview1 a1) rest).emitRecord _ 1)
  case inr.inr.inr =>
    rw [State.blockStep_encode_waits hact hv hshort,
      State.blockStep_encode_waits (s := s.withTables tf td) hact hv hshort]
    exact .of_same h.same

/-- A real slot decodes the same value and both sides observe it (R223). -/
theorem afterRealHalf (h : s.RunsAlike s') (hc : s.pred.configured = true) (e : Engine) (c : BitVec 3) :
    (s.afterRealHalf e c).RunsAlike (s'.afterRealHalf e c) := by
  have hview := h.same.sameView
  have hvalue := hview.decHalf_fst h.sound hc s.hashes e (s.ports.bin.take (nbytes c))
  have hnext := hview.decHalf_snd h.sound h.sound' hc s.hashes e (s.ports.bin.take (nbytes c))
  obtain ⟨tf, td, rfl⟩ := h.same.exists_withTables
  refine ⟨?_, h.sound.observe s.hashes_inRange hc _, h.sound'.observe s.hashes_inRange hc _, fun _ => hc⟩
  rw [State.afterRealHalf_eq_afterReading, State.afterRealHalf_eq_afterReading, State.withTables_hashes,
    State.withTables_ports, hvalue]
  exact h.same.afterReading hnext _ _ _

/-- The parser's guard makes the same checks, and runs its operation inside DECODE alone (R55, R391). -/
theorem parse (h : s.RunsAlike s') (k : Nat) {run run' : State → State}
    (hrun : s.seq.act = .decode → (run (s.takeBin k)).RunsAlike (run' (s'.takeBin k))) :
    (s.parse k run).RunsAlike (s'.parse k run') := by
  obtain ⟨tf, td, rfl⟩ := h.same.exists_withTables
  unfold State.parse
  exact rel_ite (fun _ => h) fun hact => rel_ite (fun _ => h.raise _) fun _ => rel_ite (fun _ => h) fun _ =>
    hrun (not_not.mp hact)

/-- A half decodes the same value in a real slot and skips the same bytes in the synthetic one (R275, R276). -/
theorem runHalf (h : s.RunsAlike s') (e : Engine) (c : BitVec 3) : (s.runHalf e c).RunsAlike (s'.runHalf e c) := by
  obtain ⟨tf, td, rfl⟩ := h.same.exists_withTables
  unfold State.runHalf
  refine h.parse (nbytes c) fun hact => ?_
  have hc := h.configured_of_act (by simp [hact])
  exact rel_ite (fun _ => h.afterRealHalf hc e c) fun _ => h.takeBin _

theorem term (h : s.RunsAlike s') : (s.parse 1 fun t => t).RunsAlike (s'.parse 1 fun t => t) :=
  h.parse 1 fun _ => h.takeBin 1

/-- The parts of a record run alike, one after the other (R274 to R276). -/
theorem runRecord (h : s.RunsAlike s') (header : Byte) (pad : Bool) :
    SameNext (runRecord header pad s) (runRecord header pad s') := by
  have hslots := (h.runHalf (nibbleEngine (header.extractLsb' 4 4)) (headerCode1 header)).runHalf
    (nibbleEngine (header.extractLsb' 0 4)) (headerCode2 header)
  rw [runRecord_eq, runRecord_eq]
  cases pad
  case false => exact .of_same hslots.mark.same
  case true => exact .of_same hslots.term.mark.same

/-- A record step of DECODE makes the same checks and runs the same record. -/
theorem decodeRecordStep (h : s.RunsAlike s') : SameNext s.decodeRecordStep s'.decodeRecordStep := by
  obtain ⟨tf, td, rfl⟩ := h.same.exists_withTables
  by_cases h0 : s.regs.srcLen.toNat = 0
  · rw [State.decodeRecordStep_of_srcLen_eq_zero h0,
      State.decodeRecordStep_of_srcLen_eq_zero (s := s.withTables tf td) h0]
    exact .of_same (h.raise _).same
  have h1 : 1 ≤ s.regs.srcLen.toNat := Nat.one_le_iff_ne_zero.mpr h0
  rcases hbin : s.ports.bin with _ | ⟨header, body⟩
  · rw [State.decodeRecordStep_of_bin_nil h1 hbin,
      State.decodeRecordStep_of_bin_nil (s := s.withTables tf td) h1 hbin]
    exact .of_same h.same
  · rw [State.decodeRecordStep_of_bin_cons h1 hbin,
      State.decodeRecordStep_of_bin_cons (s := s.withTables tf td) h1 hbin]
    exact rel_ite (fun _ => .of_same ((h.takeBin 1).raise _).same) fun _ =>
      rel_ite (fun _ => .of_same h.same) fun _ => (h.takeBin 1).runRecord header _

/-- DECODE ends at the same position (R278). -/
theorem blockStep_of_decode (h : s.RunsAlike s') (hact : s.seq.act = .decode) : SameNext s.blockStep s'.blockStep := by
  have hstep := h.decodeRecordStep
  obtain ⟨tf, td, rfl⟩ := h.same.exists_withTables
  rcases Nat.lt_or_ge s.regs.values.toNat s.seq.n.toNat with hv | hn
  · rwa [State.blockStep_decodeRecordStep hact hv,
      State.blockStep_decodeRecordStep (s := s.withTables tf td) hact hv]
  · rw [State.blockStep_of_n_le_values (.inr hact) hn,
      State.blockStep_of_n_le_values (s := s.withTables tf td) (.inr hact) hn]
    exact .of_same h.same.complete

/-- Whatever the block does, it does alike. -/
theorem blockStep (h : s.RunsAlike s') : SameNext s.blockStep s'.blockStep := by
  cases hact : s.seq.act
  case encode => exact h.blockStep_of_encode hact
  case decode => exact h.blockStep_of_decode hact
  all_goals obtain ⟨tf, td, rfl⟩ := h.same.exists_withTables
  case idle =>
    rw [State.blockStep_of_idle hact, State.blockStep_of_idle (s := s.withTables tf td) hact]
    exact .of_same h.same
  case config =>
    rw [State.blockStep_of_config hact, State.blockStep_of_config (s := s.withTables tf td) hact]
    exact .of_same h.same.configStep

/-! ### The world outside -/

/-- Reset during a record step cuts the streams where it would have with the other tables (R383). -/
theorem resetMidRecord (h : s.RunsAlike s') : SameNext s.resetMidRecord s'.resetMidRecord := by
  have hblock := h.blockStep
  obtain ⟨tf, td, rfl⟩ := h.same.exists_withTables
  refine hblock.andThen fun t t' ht => ?_
  obtain ⟨tf', td', rfl⟩ := ht.exists_withTables
  exact .of_same (h.same.resetBlock.map (f := fun u => { u with
    ports := s.cutPorts t
    env := { u.env with draws := s.env.draws + 4 } }) (fun _ _ => rfl) fun _ => rfl)

/-- Whatever the world outside does, it is shown no unreachable slot. -/
theorem outsideStep (h : s.RunsAlike s') (act : OutsideAction) : SameNext (s.outsideStep act) (s'.outsideStep act) := by
  cases act
  case resetMidRecord => exact h.resetMidRecord
  all_goals
    have hsame := h.same
    obtain ⟨tf, td, rfl⟩ := hsame.exists_withTables
  case busRead addr width =>
    simp only [State.outsideStep, State.withTables_build]
    split
    · exact .of_same hsame
    · exact .of_same (hsame.answer _)
    · exact .of_same (hsame.readReg _)
  case busWrite addr width w =>
    simp only [State.outsideStep, State.withTables_build]
    split
    · exact .of_same hsame
    · exact .of_same (hsame.answer _)
    · exact .writeReg (hsame.answer _) _ w
  case pushVin | pushBin | popBout | popVout => exact .of_same (hsame.withPorts _)
  case discardVin | discardBin => exact .of_same (hsame.discard _)
  case reset => exact .of_same hsame.resetBlock

end State.RunsAlike

/-- Whoever's turn it is. -/
theorem SameNext.move {s s' : State} (h : s.SoundButIrq) (h' : s'.SoundButIrq) (hsame : SameReachable s s') :
    SameNext s.move s'.move := by
  have hturn (ts : List Turn) := State.RunsAlike.of_sound (hsame.withTurns ts) (h.withTurns ts) (h'.withTurns ts)
  have hnow := State.RunsAlike.of_sound hsame h h'
  obtain ⟨tf, td, rfl⟩ := hsame.exists_withTables
  rcases hturns : s.env.turns with _ | ⟨_ | act, ts⟩ <;>
    simp only [State.move, State.withTables_env, hturns]
  · exact hnow.blockStep
  · exact (hturn ts).blockStep
  · exact (hturn ts).outsideStep act

end Sys2Proof.Machine

namespace Sys2Proof.Proofs

open Sys2Proof.Machine Sys2Proof.Stated

/-- Settles O59: both moves end in next states alike, and settling `irq` keeps them alike. -/
theorem unreachableSlotsAreNeverObservable : Obligations.UnreachableSlotsAreNeverObservable := by
  unfold Obligations.UnreachableSlotsAreNeverObservable
  intro s s' hs hs' hsame
  obtain ⟨hsound, -⟩ := (State.sound_iff s).mp hs
  obtain ⟨hsound', -⟩ := (State.sound_iff s').mp hs'
  exact (SameNext.move hsound hsound' hsame).andThen fun _ _ h => .of_same h.settleIrq

end Sys2Proof.Proofs
